-- ==== Sys2Proof/Word.lean ====
section
/-! DEFINITION. The word types: the byte (R12 of 00_scope.md), the 16-bit identifier field of the wire and of the TX port
(R66, R33), the 11-bit identifier of a received frame (R32) and the 4-bit command code (R72). -/

namespace Sys2Proof

/-- An unsigned 8-bit value (R12). -/
abbrev Byte := BitVec 8

/-- The 16-bit ID field of the wire (R66), and the identifier of a TxFrame, TX_ID_WIDTH = 16 (R10, R33). -/
abbrev Id16 := BitVec 16

/-- The identifier of a Frame: 11 bits (R32). -/
abbrev Id11 := BitVec 11

/-- The command code `op[3:0]` (R72). -/
abbrev OpCode := BitVec 4

end Sys2Proof
end

