-- ==== Sys2Proof/Config.lean ====
section
/-! DEFINITION. The implementation parameters of R10 (00_scope.md), fixed when the block is built (R137), and the fixed constants
that are not parameters. The parameters are plain data, so that a statement quantifies over them (log 1). LINKCFG is an operand of
BIND, not a stored parameter (R36); TX_ID_WIDTH = 16 is the width of `Id16`. -/

namespace Sys2Proof

/-- Which DECODE test comes first when fewer than 4 bytes are at hand (R10, D5). -/
inductive DecodeOrder where
  | incompleteFirst
  | resyncFirst
  deriving DecidableEq, Repr

/-- How ENCODE treats a TX identifier above 0x7FF (R10, D12). -/
inductive EncodeIdMode where
  | unmasked
  | mask11
  | refuse
  deriving DecidableEq, Repr

/-- The build parameters of R10. -/
structure Params where
  /-- `CAPACITY`: the size in bytes of BUF, a natural number of at least 1. -/
  capacity : Nat
  decodeOrder : DecodeOrder
  encodeIdMode : EncodeIdMode
  deriving DecidableEq, Repr

/-- `MAX_CHUNK` equals `CAPACITY` (R10, D4). -/
def Params.maxChunk (p : Params) : Nat := p.capacity

/-- The default of each parameter (R10). -/
def Params.default : Params := ⟨256, .incompleteFirst, .unmasked⟩

/-- The legal parameters: any `CAPACITY` of at least 1 (R11). -/
abbrev Params.wf (p : Params) : Prop := 1 ≤ p.capacity

/-- `SYNC` (R10). -/
def SYNC : Byte := 0xAA

/-- `HDR`, the header length in bytes (R10). -/
def HDR : Nat := 4

/-- `MAXLEN`, the largest payload length (R10). -/
def MAXLEN : Nat := 8

/-- `IDMASK`, 11 bits (R10), as wide as the wire's ID field. -/
def IDMASK : Id16 := 0x7FF

end Sys2Proof
end

