-- ==== Sys2Proof/Syntax.lean ====
section
/-! DEFINITION. The value types that cross the ports (R32, R33, R74) and the instruction type: one constructor for each of the 24
rows of spec/opcode_table.json. Operands are by value (R44). Names, transport identities, link configurations and tokens are opaque:
the block only passes them on, so each is a number under a type of its own (log 8). -/

namespace Sys2Proof

/-- A network endpoint's name, the operand of RESOLVE (R74). Opaque. -/
structure EndpointName where
  raw : Nat
  deriving DecidableEq, Repr

/-- A transport's identity, the operand of OPEN (R74). Opaque. -/
structure TransportId where
  raw : Nat
  deriving DecidableEq, Repr

/-- LINKCFG: baud rate, parity and flow control, passed through unread (R36, R101). Opaque. -/
structure LinkCfg where
  raw : Nat
  deriving DecidableEq, Repr

/-- The release token of a TX frame (R33, R113). Opaque. -/
structure Token where
  raw : Nat
  deriving DecidableEq, Repr

/-- The eight payload byte lanes `p0 .. p7` of the TX port (R33). -/
structure Lanes where
  p0 : Byte
  p1 : Byte
  p2 : Byte
  p3 : Byte
  p4 : Byte
  p5 : Byte
  p6 : Byte
  p7 : Byte
  deriving DecidableEq, Repr

/-- The value type of the TX_FRAME port (R33): a 16-bit identifier, a length of 0 to 255 and eight payload lanes. -/
structure TxFrame where
  id : Id16
  length : Byte
  lanes : Lanes
  deriving DecidableEq, Repr

/-- The value type of the INJ port and of FEED's result (R32). -/
structure Frame where
  id : Id11
  length : BitVec 4
  payload : List Byte
  deriving DecidableEq, Repr

/-- R32's invariant: `length` never exceeds 8, and the payload has `length` bytes. -/
abbrev Frame.wf (f : Frame) : Prop := f.length.toNat ≤ MAXLEN ∧ f.payload.length = f.length.toNat

/-- The six port commands (R3, R72). -/
inductive Command where
  | bind
  | unbind
  | rxChunk
  | txFrame
  | transportClose
  | endpointRemove
  deriving DecidableEq, Repr

/-- The inbound ports (R72). -/
inductive InPort where
  | ctrl
  | rxIn
  | txReq
  | hostEv
  deriving DecidableEq, Repr

/-- The port each command comes in on (R72). -/
def Command.port : Command → InPort
  | .bind => .ctrl
  | .unbind => .ctrl
  | .rxChunk => .rxIn
  | .txFrame => .txReq
  | .transportClose => .hostEv
  | .endpointRemove => .hostEv

/-- The rows of spec/opcode_table.json. The three FUNC rows are the internal functions (R80) and the WIRE rows are the header
classification of R76, one pass of FEED's scan each (log 6, log 7). -/
inductive Instr where
  | bind (name : EndpointName) (transport : TransportId) (cfg : LinkCfg)
  | unbind
  | rxChunk (chunk : List Byte)
  | txFrame (tf : TxFrame) (token : Token)
  | transportClose
  | endpointRemove
  | reserved0
  | reserved7
  | reserved8F (low : BitVec 3)
  | encode (f : TxFrame)
  | decode (w : List Byte) (off : Nat)
  | feed (chunk : List Byte)
  | wireShort (bytes : List Byte)
  | wireNosync (sync : Byte) (id : Id16) (len : Byte)
  | wireBadlen (id : Id16) (len : Byte)
  | wireFrameL0 (id : Id16)
  | wireFrameL1 (id : Id16)
  | wireFrameL2 (id : Id16)
  | wireFrameL3 (id : Id16)
  | wireFrameL4 (id : Id16)
  | wireFrameL5 (id : Id16)
  | wireFrameL6 (id : Id16)
  | wireFrameL7 (id : Id16)
  | wireFrameL8 (id : Id16)
  deriving DecidableEq, Repr

/-- The three formats of the table's rows: a 4-bit command, an internal function without bits, a wire header. -/
inductive Format where
  | cmd
  | func
  | wireHdr32
  deriving DecidableEq, Repr

/-- The `format` column of spec/opcode_table.json. -/
def Instr.format : Instr → Format
  | .bind _ _ _ => .cmd
  | .unbind => .cmd
  | .rxChunk _ => .cmd
  | .txFrame _ _ => .cmd
  | .transportClose => .cmd
  | .endpointRemove => .cmd
  | .reserved0 => .cmd
  | .reserved7 => .cmd
  | .reserved8F _ => .cmd
  | .encode _ => .func
  | .decode _ _ => .func
  | .feed _ => .func
  | .wireShort _ => .wireHdr32
  | .wireNosync _ _ _ => .wireHdr32
  | .wireBadlen _ _ => .wireHdr32
  | .wireFrameL0 _ => .wireHdr32
  | .wireFrameL1 _ => .wireHdr32
  | .wireFrameL2 _ => .wireHdr32
  | .wireFrameL3 _ => .wireHdr32
  | .wireFrameL4 _ => .wireHdr32
  | .wireFrameL5 _ => .wireHdr32
  | .wireFrameL6 _ => .wireHdr32
  | .wireFrameL7 _ => .wireHdr32
  | .wireFrameL8 _ => .wireHdr32

/-- The command an instruction is, for the six port commands (R72). -/
def Instr.command : Instr → Option Command
  | .bind _ _ _ => some .bind
  | .unbind => some .unbind
  | .rxChunk _ => some .rxChunk
  | .txFrame _ _ => some .txFrame
  | .transportClose => some .transportClose
  | .endpointRemove => some .endpointRemove
  | .reserved0 => none
  | .reserved7 => none
  | .reserved8F _ => none
  | .encode _ => none
  | .decode _ _ => none
  | .feed _ => none
  | .wireShort _ => none
  | .wireNosync _ _ _ => none
  | .wireBadlen _ _ => none
  | .wireFrameL0 _ => none
  | .wireFrameL1 _ => none
  | .wireFrameL2 _ => none
  | .wireFrameL3 _ => none
  | .wireFrameL4 _ => none
  | .wireFrameL5 _ => none
  | .wireFrameL6 _ => none
  | .wireFrameL7 _ => none
  | .wireFrameL8 _ => none

end Sys2Proof
end

