-- ==== Sys2Proof/WellFormed.lean ====
section
/-! DEFINITION. Which terms of `Instr` are instructions: the precondition of ENCODE (R81), the offset bound of DECODE (R82) and the
conditions that choose a row of the header classification (R76). Every other term is one: a chunk's bound depends on CAPACITY and is
checked when the command runs (R86), and a TxFrame with a length above 8 is a legal operand (R33). -/

namespace Sys2Proof

/-- The operand checks that do not depend on the state. -/
def wellFormed : Instr → Bool
  | .encode f => decide (f.length.toNat ≤ MAXLEN)
  | .decode w off => decide (off ≤ w.length)
  | .wireShort bytes => decide (bytes.length < HDR)
  | .wireNosync sync _ _ => decide (sync ≠ SYNC)
  | .wireBadlen _ len => decide (MAXLEN < len.toNat)
  | .bind _ _ _ => true
  | .unbind => true
  | .rxChunk _ => true
  | .txFrame _ _ => true
  | .transportClose => true
  | .endpointRemove => true
  | .reserved0 => true
  | .reserved7 => true
  | .reserved8F _ => true
  | .feed _ => true
  | .wireFrameL0 _ => true
  | .wireFrameL1 _ => true
  | .wireFrameL2 _ => true
  | .wireFrameL3 _ => true
  | .wireFrameL4 _ => true
  | .wireFrameL5 _ => true
  | .wireFrameL6 _ => true
  | .wireFrameL7 _ => true
  | .wireFrameL8 _ => true

end Sys2Proof
end

