-- ==== Sys2Proof/Decode.lean ====
section
/-! DEFINITION. The decoder, total on every command word and on every window of bytes, and the encoder. Three encodings exist: a
command is its 4-bit code followed by its operands by value (R72, R74; Part 6 of 95_test_vectors.md), an internal function has no bits
(R80), and a wire header is the first four bytes of the window (R66, R76). -/

namespace Sys2Proof

/-! ## The ID field's byte order (R46, R66) -/

/-- `ID = (zext_16(byte1) << 8) | zext_16(byte2)` (R66). -/
def idField (hi lo : Byte) : Id16 := (hi.zeroExtend 16 <<< (8 : Nat)) ||| lo.zeroExtend 16

/-- `id_high = id[15:8]` (R68). -/
def idHigh (id : Id16) : Byte := id.extractLsb' 8 8

/-- `id_low = id[7:0]` (R68). -/
def idLow (id : Id16) : Byte := id.extractLsb' 0 8

/-! ## What a step fetches -/

/-- The operands of a command, by value (R74). Each command reads its own ones. -/
structure CmdArgs where
  name : EndpointName
  transport : TransportId
  cfg : LinkCfg
  chunk : List Byte
  tf : TxFrame
  token : Token
  deriving DecidableEq, Repr

/-- Operand words of zeros: the chunk of no bytes, the TxFrame of zeros, the number 0 for every opaque operand. -/
def CmdArgs.zero : CmdArgs := ⟨⟨0⟩, ⟨0⟩, ⟨0⟩, [], ⟨0, 0, ⟨0, 0, 0, 0, 0, 0, 0, 0⟩⟩, ⟨0⟩⟩

/-- A call of an internal function, its operands by value (R80: no code on any port). -/
inductive FuncCall where
  | encode (f : TxFrame)
  | decode (w : List Byte) (off : Nat)
  | feed (chunk : List Byte)
  deriving DecidableEq, Repr

/-- An instruction as it stands where the block takes it from: a command transaction on a port, a call of an internal function
inside a body, or the window whose front the scan classifies. -/
inductive Encoded where
  | command (op : OpCode) (args : CmdArgs)
  | func (call : FuncCall)
  | window (w : List Byte)
  deriving DecidableEq, Repr

/-! ## Decoding -/

/-- The command codes of R72 and the reserved ranges of R73. -/
def decodeCommand (op : OpCode) (a : CmdArgs) : Instr :=
  if op = 0x1 then .bind a.name a.transport a.cfg
  else if op = 0x2 then .unbind
  else if op = 0x3 then .rxChunk a.chunk
  else if op = 0x4 then .txFrame a.tf a.token
  else if op = 0x5 then .transportClose
  else if op = 0x6 then .endpointRemove
  else if op = 0x0 then .reserved0
  else if op = 0x7 then .reserved7
  else .reserved8F (op.extractLsb' 0 3)

/-- The internal functions. -/
def decodeFunc : FuncCall → Instr
  | .encode f => .encode f
  | .decode w off => .decode w off
  | .feed chunk => .feed chunk

/-- The rows of the header word `H` (R76): H[31:24] is Sync, H[23:8] is ID, H[7:0] is L. -/
def decodeHeader (sync : Byte) (id : Id16) (len : Byte) : Instr :=
  if sync ≠ SYNC then .wireNosync sync id len
  else if len = 0 then .wireFrameL0 id
  else if len = 1 then .wireFrameL1 id
  else if len = 2 then .wireFrameL2 id
  else if len = 3 then .wireFrameL3 id
  else if len = 4 then .wireFrameL4 id
  else if len = 5 then .wireFrameL5 id
  else if len = 6 then .wireFrameL6 id
  else if len = 7 then .wireFrameL7 id
  else if len = 8 then .wireFrameL8 id
  else .wireBadlen id len

/-- The row of R76 that the front of a window selects. Row 1 is every window of fewer than 4 bytes, under both orders: which verdict
it gives under RESYNC_FIRST is that row's meaning, not its encoding. -/
def decodeWindow : List Byte → Instr
  | b0 :: b1 :: b2 :: b3 :: _ => decodeHeader b0 (idField b1 b2) b3
  | w => .wireShort w

/-- The decoder. Total: every code and every window has a row of the table, the reserved codes among them. -/
def decode : Encoded → Instr
  | .command op a => decodeCommand op a
  | .func c => decodeFunc c
  | .window w => decodeWindow w

/-- Why a raw command word is no command word. -/
inductive DecodeError where
  /-- A bit above `op[3:0]` is set: the code has four bits (R72). -/
  | bitsAboveOp
  deriving DecidableEq, Repr

/-- The command code in a byte that holds nothing else (R72: `op[3:0]`). -/
def decodeOpByte (b : Byte) : Except DecodeError OpCode :=
  if b.extractLsb' 4 4 = 0 then .ok (b.extractLsb' 0 4) else .error .bitsAboveOp

/-! ## Encoding -/

/-- The codes of R72. -/
def Command.code : Command → OpCode
  | .bind => 0x1
  | .unbind => 0x2
  | .rxChunk => 0x3
  | .txFrame => 0x4
  | .transportClose => 0x5
  | .endpointRemove => 0x6

/-- The four header bytes in transmission order (R65, R66). -/
def headerBytes (sync : Byte) (id : Id16) (len : Byte) : List Byte := [sync, idHigh id, idLow id, len]

/-- The words of an instruction, from the same tables (R66, R72, R73, R76). -/
def encode : Instr → Encoded
  | .bind n t c => .command Command.bind.code { CmdArgs.zero with name := n, transport := t, cfg := c }
  | .unbind => .command Command.unbind.code CmdArgs.zero
  | .rxChunk chunk => .command Command.rxChunk.code { CmdArgs.zero with chunk := chunk }
  | .txFrame tf token => .command Command.txFrame.code { CmdArgs.zero with tf := tf, token := token }
  | .transportClose => .command Command.transportClose.code CmdArgs.zero
  | .endpointRemove => .command Command.endpointRemove.code CmdArgs.zero
  | .reserved0 => .command 0x0 CmdArgs.zero
  | .reserved7 => .command 0x7 CmdArgs.zero
  | .reserved8F low => .command ((1 : BitVec 1) ++ low) CmdArgs.zero
  | .encode f => .func (.encode f)
  | .decode w off => .func (.decode w off)
  | .feed chunk => .func (.feed chunk)
  | .wireShort bytes => .window bytes
  | .wireNosync sync id len => .window (headerBytes sync id len)
  | .wireBadlen id len => .window (headerBytes SYNC id len)
  | .wireFrameL0 id => .window (headerBytes SYNC id 0)
  | .wireFrameL1 id => .window (headerBytes SYNC id 1)
  | .wireFrameL2 id => .window (headerBytes SYNC id 2)
  | .wireFrameL3 id => .window (headerBytes SYNC id 3)
  | .wireFrameL4 id => .window (headerBytes SYNC id 4)
  | .wireFrameL5 id => .window (headerBytes SYNC id 5)
  | .wireFrameL6 id => .window (headerBytes SYNC id 6)
  | .wireFrameL7 id => .window (headerBytes SYNC id 7)
  | .wireFrameL8 id => .window (headerBytes SYNC id 8)

/-- The format an encoding has. -/
def Encoded.format : Encoded → Format
  | .command _ _ => .cmd
  | .func _ => .func
  | .window _ => .wireHdr32

/-! ## Words of the opcode table (log 12) -/

/-- The `k` bytes of the number `w`, most significant first: the header word `H = byte0<<24 | byte1<<16 | byte2<<8 | byte3` (R66). -/
def bytesOfWord : Nat → Nat → List Byte
  | 0, _ => []
  | k + 1, w => BitVec.ofNat 8 (w / 2 ^ (8 * k)) :: bytesOfWord k w

/-- The payload a header's Length byte asks for, as operand words of zeros; none where the length is no legal one. -/
def zeroPayload (w : Nat) : List Byte := if w % 256 ≤ MAXLEN then List.replicate (w % 256) 0 else []

/-- The window that holds a table word of a WIRE_HDR32 row: the header's bytes and, for a whole header, the payload of zeros. -/
def windowOfWord (nbits w : Nat) : List Byte :=
  if nbits < 32 then bytesOfWord (nbits / 8) w else bytesOfWord 4 w ++ zeroPayload w

/-- A row of one byte is a command code (format CMD); a row of four is a wire header word `H`; two and three bytes, or none, are
a window too short for a header. -/
def decodeTableWord (nbits w : Nat) : Option Instr :=
  if nbits = 8 then
    if w < 256 then
      match decodeOpByte (BitVec.ofNat 8 w) with
      | .ok op => some (decode (.command op CmdArgs.zero))
      | .error _ => none
    else none
  else if w < 2 ^ 32 ∧ nbits ≤ 32 then some (decode (.window (windowOfWord nbits w)))
  else none

end Sys2Proof
end

