-- ==== Sys2Proof/Machine/State.lean ====
section
/-! DEFINITION. The state of the block (R20 of 10_state.md) as plain data, what stands outside it and is an input of a step (R131 of
60_exceptions.md), the reasons a step can stop, and the state after reset (R135 of 70_reset_and_hazards.md). -/

namespace Sys2Proof.Machine

/-! ## The block's own state -/

/-- `BSTATE` (R21): no other values exist. -/
inductive BState where
  | unbound
  | bound
  deriving DecidableEq, Repr

/-- The contexts that invoke the block (R49). The block reads no identifier of an agent (R130); the model uses it to say who holds
LOCK (log 9). -/
inductive Agent where
  | rx
  | tx
  | control
  | other (n : Nat)
  deriving DecidableEq, Repr

/-- `LOCK` (R22): `Free` or `Held(agent)`. -/
inductive Lock where
  | free
  | held (a : Agent)
  deriving DecidableEq, Repr

/-- The storage `BUF` (R25, R42) as the list of the addresses that hold a value, with the value. In canonical form the addresses are
0 .. PENDING-1 in order (`Memory.wf`): a byte at or past PENDING holds no value and is not listed (R26, log 2). -/
structure Memory where
  cells : List Host.Cell
  deriving DecidableEq, Repr

/-- An opaque handle the host gave (R27). -/
structure Handle where
  raw : Nat
  deriving DecidableEq, Repr

/-- `HND = {TP, EP, ORIGTX}` (R27). -/
structure Handles where
  tp : Handle
  ep : Handle
  origtx : Handle
  deriving DecidableEq, Repr

/-! ## Responses, conditions and the output trace -/

/-- What RESOLVE answers (R72). -/
inductive ResolveAnswer where
  | handle (ep : Handle)
  | notFound
  deriving DecidableEq, Repr

/-- What OPEN answers (R72). -/
inductive OpenAnswer where
  | handle (tp : Handle)
  | unavailable
  deriving DecidableEq, Repr

/-- What INJECT and WRITE answer (R72). -/
inductive CallAnswer where
  | ok
  | fail
  deriving DecidableEq, Repr

/-- BindResult (R75). -/
inductive BindResult where
  | ok
  | endpointNotFound
  | transportUnavailable
  | alreadyBound
  deriving DecidableEq, Repr

/-- TxOutcome (R75). -/
inductive TxOutcome where
  | sent
  | failedTransport
  | failedMalformed
  | failedNotBound
  deriving DecidableEq, Repr

/-- The result a command hands back on its port (R75, R122). -/
inductive Response where
  | bind (r : BindResult)
  | tx (o : TxOutcome)
  | done
  deriving DecidableEq, Repr

/-- DecodeResult (R75, R82): internal to FEED. -/
inductive DecodeResult where
  | frame (f : Frame) (consumed : Nat)
  | incomplete
  | resync
  deriving DecidableEq, Repr

/-- The logged conditions of R116, each with what its info is made from. -/
inductive Condition where
  | overflow (discarded chunkLen : Nat)
  | injectFail (f : Frame)
  | txTransportFail (tf : TxFrame)
  | txMalformed (tf : TxFrame)
  | rxWhileUnbound (chunkLen : Nat)
  | txWhileUnbound (tf : TxFrame)
  deriving DecidableEq, Repr

/-- The info of an EVT entry (R116). -/
inductive EvtInfo where
  | loss (discarded chunkLen : Nat)
  | chunkLen (n : Nat)
  | frame (f : Frame)
  | txFrame (tf : TxFrame)
  deriving DecidableEq, Repr

/-- The entries of TRACE (R31). INJECT and WRITE keep the handle the rules pass (`HND.EP`, `HND.TP`), which R31's notation leaves
out (log 11). -/
inductive TraceEntry where
  | resolve (name : EndpointName) (r : ResolveAnswer)
  | openTransport (transport : TransportId) (r : OpenAnswer)
  | config (cfg : LinkCfg)
  | attachRx
  | install (origtx : Handle)
  | restore (origtx : Handle)
  | detachRx
  | inject (ep : Handle) (f : Frame) (r : CallAnswer)
  | write (tp : Handle) (bytes : List Byte) (r : CallAnswer)
  | release (token : Token)
  | evt (code : Byte) (info : EvtInfo)
  | resp (op : Command) (result : Response)
  deriving DecidableEq, Repr

/-! ## What stands outside the block: the model's own fields -/

/-- How a host breaks obligation (a) or (b) of R131 in a collaborator call. -/
inductive BreachKind where
  | reenters
  | neverReturns
  deriving DecidableEq, Repr

/-- A host that keeps its obligations for the first `after` collaborator calls of a command and breaks one in the next (log 5). -/
structure Breach where
  after : Nat
  kind : BreachKind
  deriving DecidableEq, Repr

/-- The free inputs of one step (R131, I6, I7): the issuing agent, what each collaborator answers, and whether the host breaks its
obligations. The k-th INJECT of the command answers `injects[k]`, and `injectRest` past the list's end, so that every finite sequence
of answers is some value of this type (log 4). -/
structure Input where
  agent : Agent
  resolve : ResolveAnswer
  opened : OpenAnswer
  origtx : Handle
  injects : List CallAnswer
  injectRest : CallAnswer
  write : CallAnswer
  breach : Option Breach
  deriving DecidableEq, Repr

/-- A command an agent has issued: its code and operands (R72, R74) and the inputs its step will meet. -/
structure Request where
  op : OpCode
  args : CmdArgs
  input : Input
  deriving DecidableEq, Repr

/-- What an internal function hands back to its caller (R16 `return v`, R83, R85). The block keeps it nowhere; the model shows it
here so that ENCODE, DECODE, FEED and a scan pass have a result that can be read (log 6). -/
inductive FuncResult where
  | bytes (bs : List Byte)
  | decoded (r : DecodeResult)
  | frames (fs : List Frame)
  deriving DecidableEq, Repr

/-- An internal function to run as the next step, as a command's body would call it: FUNC rows by value, or one pass of FEED's scan,
which takes its row from the front of the window (log 6). -/
inductive InnerCall where
  | func (c : FuncCall)
  | scanPass
  deriving DecidableEq, Repr

/-- The state. `bstate`, `lock`, `buf` and `hnd` are R20's elements, PENDING is the number of bytes `buf` lists (R24, `State.pending`),
and `trace` is R31's TRACE. `params` holds the build parameters (log 1). The last four fields are the model's own. -/
structure State where
  params : Params
  bstate : BState
  lock : Lock
  buf : Option Memory
  hnd : Option Handles
  trace : List TraceEntry
  ret : Option FuncResult
  input : Input
  inbox : List Request
  inner : Option InnerCall
  deriving DecidableEq, Repr

/-! ## How a step can stop -/

/-- Faults: the model's stuck states, and calls to which the spec gives no meaning. -/
inductive Fault where
  /-- Raised when an agent asks for LOCK while its own context holds it: by a command of the holder, and by a collaborator call that
  re-enters the block. The run is stuck (R53, R134). Safe: the hardware makes no further step either. -/
  | lockReentered
  /-- Raised when a collaborator call never returns, against host obligation (a) of R131. The run is stuck. Safe. -/
  | callNeverReturns
  /-- Raised by RX_CHUNK, FEED and a scan pass when BUF does not exist. R23: no rule reads it then. For RX_CHUNK it takes a state that R37(a)
  excludes (log 14). Safe. -/
  | noReceiveState
  /-- Raised by UNBIND, TRANSPORT_CLOSE, ENDPOINT_REMOVE, RX_CHUNK and TX_FRAME when BSTATE is Bound and HND does not exist, which
  R37(a) excludes (log 14). Safe. -/
  | noHandles
  /-- Raised by ENCODE on a length above 8, against the precondition of R81; lanes past p7 do not exist. TX_FRAME never calls it so
  (R110, log 13). Safe. -/
  | encodeLength
  /-- Raised by DECODE on an offset past the window's end, against the operand bound of R82. FEED never calls it so
  (log 13). Safe. -/
  | decodeOffset
  deriving DecidableEq, Repr

/-- Refusals: no meaning is given and the run is marked refused (R134). -/
inductive Refusal where
  /-- Raised by an arm of exec whose instruction has no meaning yet. Safe. -/
  | notModelled (mnemonic : String)
  /-- Raised by the reserved command codes 0x0 and 0x7 .. 0xF (R73). Safe. -/
  | reservedCommand (op : OpCode)
  /-- Raised by RX_CHUNK and FEED on a chunk longer than MAX_CHUNK (R86). Safe. -/
  | chunkTooLong
  /-- Raised by ENCODE, and by TX_FRAME through it, on an identifier above 0x7FF under ENCODE_ID_MODE = REFUSE (R81). Safe. -/
  | encodeIdOverrange
  deriving DecidableEq, Repr

/-- The outcome of an operation. -/
abbrev Out := Host.Outcome State Fault Refusal

/-! ## Reset -/

/-- The inputs that stand in the state before any step has been given its own. DESIGN CHOICE (log 4): every collaborator refuses, and
the host keeps its obligations. A step that runs a command from `inbox` takes that command's own inputs instead. -/
def Input.initial : Input := ⟨.control, .notFound, .unavailable, ⟨0⟩, [], .fail, .fail, none⟩

/-- Power-on reset of a block built with the parameters `p` (R135, R137): Unbound, LOCK free, no BUF, PENDING or HND, TRACE empty. -/
def State.resetWith (p : Params) : State :=
  ⟨p, .unbound, .free, none, none, [], none, Input.initial, [], none⟩

/-- The state right after reset, at the default parameters (R10, R135). -/
def State.reset : State := State.resetWith Params.default

end Sys2Proof.Machine
end

