-- ==== Sys2Proof/Machine/Flags.lean ====
section
/-! DEFINITION. The codes of the block. It has no condition code and no status flag beyond BSTATE (R30); what it has are the numbers
of its responses (R75) and of its logged conditions, with their info (R116), and the optional status word of R34. -/

namespace Sys2Proof.Machine

/-- `Unbound` = 0, `Bound` = 1 (R21). -/
def BState.code : BState → Nat
  | .unbound => 0
  | .bound => 1

/-- R75. -/
def BindResult.code : BindResult → Nat
  | .ok => 0
  | .endpointNotFound => 1
  | .transportUnavailable => 2
  | .alreadyBound => 3

/-- R75. -/
def TxOutcome.code : TxOutcome → Nat
  | .sent => 0
  | .failedTransport => 1
  | .failedMalformed => 2
  | .failedNotBound => 3

/-- R75. -/
def Response.code : Response → Nat
  | .bind r => r.code
  | .tx o => o.code
  | .done => 0

/-- R75. -/
def DecodeResult.code : DecodeResult → Nat
  | .frame _ _ => 0
  | .incomplete => 1
  | .resync => 2

/-- The EVT codes of R116. -/
def Condition.code : Condition → Byte
  | .overflow _ _ => 0x01
  | .injectFail _ => 0x02
  | .txTransportFail _ => 0x03
  | .txMalformed _ => 0x04
  | .rxWhileUnbound _ => 0x05
  | .txWhileUnbound _ => 0x06

/-- The info of R116. For the conditions of TX_FRAME it is the TxFrame. DESIGN CHOICE (log 22): all of it, with its eight payload lanes,
those at or past `length` among them; R33 says that TX_FRAME does not read these, and R116 does not say whether the info holds them. -/
def Condition.info : Condition → EvtInfo
  | .overflow d n => .loss d n
  | .injectFail f => .frame f
  | .txTransportFail tf => .txFrame tf
  | .txMalformed tf => .txFrame tf
  | .rxWhileUnbound n => .chunkLen n
  | .txWhileUnbound tf => .txFrame tf

end Sys2Proof.Machine
end

