-- ==== Sys2Proof/Machine/Operands.lean ====
section
/-! DEFINITION. The operand forms: the payload lanes of a TxFrame (R33), the identifier on encode (R81) and on decode (R69), and the
frame a header and its payload make (R82). -/

namespace Sys2Proof.Machine

/-- The eight lanes in order `p0 .. p7` (R33). -/
def lanesList (l : Lanes) : List Byte := [l.p0, l.p1, l.p2, l.p3, l.p4, l.p5, l.p6, l.p7]

/-- The lanes that are read: `p0 .. p(length-1)` (R33). -/
def txPayload (tf : TxFrame) : List Byte := (lanesList tf.lanes).take tf.length.toNat

/-- The identifier ENCODE writes (R81); nothing where ENCODE_ID_MODE = REFUSE refuses it. -/
def encodeId (mode : EncodeIdMode) (id : Id16) : Option Id16 :=
  match mode with
  | .unmasked => some id
  | .mask11 => some (id &&& IDMASK)
  | .refuse => if IDMASK < id then none else some id

/-- The identifier of a received frame: the ID field masked to 11 bits, bits 15:11 discarded (R69). -/
def decodeId (id : Id16) : Id11 := (id &&& IDMASK).truncate 11

/-- The frame of an ID field, a legal length and its payload (R82). -/
def mkFrame (id : Id16) (len : Nat) (payload : List Byte) : Frame := ⟨decodeId id, BitVec.ofNat 4 len, payload⟩

end Sys2Proof.Machine
end

