-- ==== Sys2Proof/Machine/Ops.lean ====
section
/-! DEFINITION. The named operations over BUF (R15, R58, R59), over TRACE (R16, R31, R117), over LOCK (R17, R22, R53) and over the
binding. The block takes no exception (R121): `raise` is the one shared operation for its conditions, and control continues. -/

namespace Sys2Proof.Machine

/-! ## BUF -/

/-- The cells of consecutive addresses from `a` on. -/
def cellsFrom : Nat → List Byte → List Host.Cell
  | _, [] => []
  | a, b :: bs => (a, b) :: cellsFrom (a + 1) bs

/-- The buffer whose window is `w`: byte i of the window at index i, no other byte (R26). -/
def Memory.ofWindow (w : List Byte) : Memory := ⟨cellsFrom 0 w⟩

/-- A buffer in which no byte holds a value (R39). -/
def Memory.empty : Memory := Memory.ofWindow []

/-- PENDING: the number of bytes at the front of BUF that hold a value (R24). -/
def Memory.pending (m : Memory) : Nat := m.cells.length

/-- `W = MemRead(0, PENDING)` (R24). -/
def Memory.window (m : Memory) : List Byte := m.cells.map Prod.snd

/-- `BUF[a]`; a byte at or past PENDING holds no value (R26). -/
def Memory.read (m : Memory) (a : Nat) : Option Byte := m.cells.lookup a

/-- The canonical form: the addresses listed are 0 .. PENDING-1, in order. -/
abbrev Memory.wf (m : Memory) : Prop := m.cells.map Prod.fst = List.range m.cells.length

/-- `MemRead(a, n)` within the window (R15). -/
def Memory.memRead (m : Memory) (a n : Nat) : List Byte := (m.window.drop a).take n

/-- `MemWrite(a, len(v), v)` for `a ≤ PENDING` (R15). -/
def Memory.memWrite (m : Memory) (a : Nat) (v : List Byte) : Memory :=
  Memory.ofWindow (m.window.take a ++ v ++ m.window.drop (a + v.length))

/-- `Append(chunk)` (R58). -/
def Memory.append (m : Memory) (chunk : List Byte) : Memory := m.memWrite m.pending chunk

/-- `DropFront(k)` (R59): byte i+k moves to index i, and the bytes past the new PENDING hold no value. -/
def Memory.dropFront (m : Memory) (k : Nat) : Memory := Memory.ofWindow (m.memRead k (m.pending - k))

/-- PENDING of the state, while it exists (R24). -/
def State.pending (s : State) : Option Nat := s.buf.map Memory.pending

/-- W of the state, while it exists (R24). -/
def State.window (s : State) : Option (List Byte) := s.buf.map Memory.window

/-! ## TRACE -/

/-- `emit E` (R16): entries stand in the order they are made (R31). -/
def State.emit (s : State) (e : TraceEntry) : State := { s with trace := s.trace ++ [e] }

/-- `raise C(info)` for a logged condition (R16, R117): an EVT entry; control then continues. -/
def State.raise (s : State) (c : Condition) : State := s.emit (.evt c.code c.info)

/-- Go on with the next state of an operation, or stop as it stopped. -/
def andThen (o : Out) (k : State → Out) : Out :=
  match o with
  | .next s => k s
  | .fault f => .fault f
  | .refused r => .refused r

/-- `call P.op(args) -> r` (R16): the entry with its response goes to TRACE. Every call is made from inside a locked body, so a
collaborator that re-enters the block leaves the agent waiting for a lock its own context holds (R53, R131). -/
def callOut (e : TraceEntry) (s : State) : Out :=
  match s.input.breach with
  | none => .next (s.emit e)
  | some ⟨0, .reenters⟩ => .fault .lockReentered
  | some ⟨0, .neverReturns⟩ => .fault .callNeverReturns
  | some ⟨n + 1, k⟩ => .next ({ s with input := { s.input with breach := some ⟨n, k⟩ } }.emit e)

/-- Every command ends by appending `RESP(op, result)` (42_controller.md, R122). -/
def respond (op : Command) (r : Response) (s : State) : Out := .next (s.emit (.resp op r))

/-! ## LOCK -/

/-- Whether an agent that asks for LOCK has to wait for another one (R22). -/
def Lock.blocks (l : Lock) (a : Agent) : Bool :=
  match l with
  | .free => false
  | .held h => decide (h ≠ a)

/-- Release LOCK and return (R17). -/
def release (s : State) : Out := .next { s with lock := .free }

/-- `with LOCK: body` (R17). While another agent holds LOCK the command waits and nothing happens; an agent that already holds it
waits for ever (R53, log 15). -/
def withLock (body : State → Out) (s : State) : Out :=
  match s.lock with
  | .free => andThen (body { s with lock := .held s.input.agent }) release
  | .held h => if h = s.input.agent then .fault .lockReentered else .next s

/-! ## The binding -/

/-- The body UNBIND, TRANSPORT_CLOSE and ENDPOINT_REMOVE share (R102, R103, R104, R105): BSTATE is flipped before the handles are
released. -/
def tearDown (op : Command) (s : State) : Out :=
  match s.bstate with
  | .unbound => respond op .done s
  | .bound =>
    match s.hnd with
    | none => .fault .noHandles
    | some h =>
      andThen (callOut (.restore h.origtx) { s with bstate := .unbound }) fun s =>
      andThen (callOut .detachRx s) fun s =>
      respond op .done { s with buf := none, hnd := none }

end Sys2Proof.Machine
end

