-- ==== Sys2Proof/Machine/Codec.lean ====
section
/-! DEFINITION. The FrameCodec (40_codec.md): ENCODE and DECODE, pure functions of their operands and the build parameters (R83). -/

namespace Sys2Proof.Machine

/-- ENCODE (R81), for a length of at most 8; nothing where the identifier is refused. -/
def encodeFrame (mode : EncodeIdMode) (f : TxFrame) : Option (List Byte) :=
  match encodeId mode f.id with
  | none => none
  | some v => some (SYNC :: idHigh v :: idLow v :: f.length :: txPayload f)

/-- DECODE's tests after the Sync byte: the Length, the bytes at hand, the frame (R82). `rest` is the window after the header. -/
def decodeBody (b1 b2 b3 : Byte) (rest : List Byte) : DecodeResult :=
  if MAXLEN < b3.toNat then .resync
  else if HDR + rest.length < HDR + b3.toNat then .incomplete
  else .frame (mkFrame (idField b1 b2) b3.toNat (rest.take b3.toNat)) (HDR + b3.toNat)

/-- DECODE at the front of a byte sequence, in the order of tests DECODE_ORDER fixes (R82). -/
def decodeFront (order : DecodeOrder) (w : List Byte) : DecodeResult :=
  match order with
  | .incompleteFirst =>
    match w with
    | b0 :: b1 :: b2 :: b3 :: rest => if b0 ≠ SYNC then .resync else decodeBody b1 b2 b3 rest
    | _ => .incomplete
  | .resyncFirst =>
    match w with
    | [] => .incomplete
    | b0 :: t =>
      if b0 ≠ SYNC then .resync
      else
        match t with
        | b1 :: b2 :: b3 :: rest => decodeBody b1 b2 b3 rest
        | _ => .incomplete

/-- `DECODE(W, off)` (R82), for `off ≤ len(W)`. -/
def decodeAt (order : DecodeOrder) (w : List Byte) (off : Nat) : DecodeResult := decodeFront order (w.drop off)

/-- ENCODE (R81): writes no state; its result is handed back to the caller. -/
def execEncode (f : TxFrame) (s : State) : Out :=
  if MAXLEN < f.length.toNat then .fault .encodeLength
  else
    match encodeFrame s.params.encodeIdMode f with
    | none => .refused .encodeIdOverrange
    | some bs => .next { s with ret := some (.bytes bs) }

/-- DECODE (R82): writes no state; its result is handed back to the caller. -/
def execDecode (w : List Byte) (off : Nat) (s : State) : Out :=
  if w.length < off then .fault .decodeOffset
  else .next { s with ret := some (.decoded (decodeAt s.params.decodeOrder w off)) }

end Sys2Proof.Machine
end

