-- ==== Sys2Proof/Machine/Assembler.lean ====
section
/-! DEFINITION. The RxAssembler (41_assembler.md): FEED, its overflow policy and its resynchronizing scan. -/

namespace Sys2Proof.Machine

/-- What a scan leaves: the frames it yielded, in order, and the window it retained. -/
structure ScanResult where
  frames : List Frame
  rest : List Byte
  deriving DecidableEq, Repr

/-- The scan loop (R89, R90, R91) with a bound on its passes. Every pass that goes on shortens the window (R92), so a bound of its
length is never reached before the loop exits (log 20). -/
def scanLoop (order : DecodeOrder) : Nat → List Byte → ScanResult
  | 0, w => ⟨[], w⟩
  | n + 1, w =>
    match decodeAt order w 0 with
    | .resync => scanLoop order n (w.drop 1)
    | .incomplete => ⟨[], w⟩
    | .frame f k =>
      let r := scanLoop order n (w.drop k)
      ⟨f :: r.frames, r.rest⟩

/-- The scan of a whole window. -/
def scan (order : DecodeOrder) (w : List Byte) : ScanResult := scanLoop order w.length w

/-- The overflow test, on PENDING before the chunk and with no wrap (R87, R12). -/
def overflows (capacity : Nat) (m : Memory) (chunk : List Byte) : Bool := decide (capacity < m.pending + chunk.length)

/-- The buffer after the overflow policy and the append (R87, R88). -/
def accept (capacity : Nat) (m : Memory) (chunk : List Byte) : Memory :=
  if overflows capacity m chunk then Memory.empty.append chunk else m.append chunk

/-- FEED (R85) on an admissible chunk: the frames it returns and the state it leaves. -/
def feed (chunk : List Byte) (m : Memory) (s : State) : List Frame × State :=
  let s1 := if overflows s.params.capacity m chunk then s.raise (.overflow m.pending chunk.length) else s
  let r := scan s.params.decodeOrder (accept s.params.capacity m chunk).window
  (r.frames, { s1 with buf := some (Memory.ofWindow r.rest) })

/-- FEED (R85): the chunk bound (R86), the overflow policy, the append and the scan. Its result is handed back to the caller. -/
def execFeed (chunk : List Byte) (s : State) : Out :=
  if s.params.maxChunk < chunk.length then .refused .chunkTooLong
  else
    match s.buf with
    | none => .fault .noReceiveState
    | some m =>
      let r := feed chunk m s
      .next { r.2 with ret := some (.frames r.1) }

end Sys2Proof.Machine
end

