-- ==== Sys2Proof/Machine/Controller.lean ====
section
/-! DEFINITION. The BridgeController commands (42_controller.md) and the reserved command codes (R73 of 30_encoding.md). -/

namespace Sys2Proof.Machine

/-! ## Binding lifecycle -/

/-- BIND's body (R99), its checks in the order of R100. -/
def bindBody (name : EndpointName) (transport : TransportId) (cfg : LinkCfg) (s : State) : Out :=
  match s.bstate with
  | .bound => respond .bind (.bind .alreadyBound) s
  | .unbound =>
    andThen (callOut (.resolve name s.input.resolve) s) fun s =>
    match s.input.resolve with
    | .notFound => respond .bind (.bind .endpointNotFound) s
    | .handle ep =>
      andThen (callOut (.openTransport transport s.input.opened) s) fun s =>
      match s.input.opened with
      | .unavailable => respond .bind (.bind .transportUnavailable) s
      | .handle tp =>
        andThen (callOut (.config cfg) s) fun s =>
        andThen (callOut .attachRx s) fun s =>
        andThen (callOut (.install s.input.origtx) s) fun s =>
        respond .bind (.bind .ok)
          { s with hnd := some ⟨tp, ep, s.input.origtx⟩, buf := some Memory.empty, bstate := .bound }

/-- BIND (R99). -/
def execBind (name : EndpointName) (transport : TransportId) (cfg : LinkCfg) (s : State) : Out :=
  withLock (bindBody name transport cfg) s

/-- UNBIND (R102, R103). -/
def execUnbind (s : State) : Out := withLock (tearDown .unbind) s

/-- TRANSPORT_CLOSE (R104): exactly UNBIND's effect. -/
def execTransportClose (s : State) : Out := withLock (tearDown .transportClose) s

/-- ENDPOINT_REMOVE (R105): exactly UNBIND's effect. -/
def execEndpointRemove (s : State) : Out := withLock (tearDown .endpointRemove) s

/-! ## Receive path -/

/-- The answer to the k-th INJECT of the command (R131). -/
def injectAnswer (i : Input) (k : Nat) : CallAnswer := i.injects.getD k i.injectRest

/-- `for f in frames, in order: call INJ.INJECT(HND.EP, f) -> r`, from the k-th INJECT on; a FAIL is logged and the loop goes on
(R106, R107). -/
def injectAll (ep : Handle) : Nat → List Frame → State → Out
  | _, [], s => .next s
  | k, f :: fs, s =>
    let r := injectAnswer s.input k
    andThen (callOut (.inject ep f r) s) fun s =>
      match r with
      | .ok => injectAll ep (k + 1) fs s
      | .fail => injectAll ep (k + 1) fs (s.raise (.injectFail f))

/-- RX_CHUNK's body (R106, R108). -/
def rxBody (chunk : List Byte) (s : State) : Out :=
  match s.bstate with
  | .unbound => respond .rxChunk .done (s.raise (.rxWhileUnbound chunk.length))
  | .bound =>
    match s.buf, s.hnd with
    | none, _ => .fault .noReceiveState
    | some _, none => .fault .noHandles
    | some m, some h =>
      let r := feed chunk m s
      andThen (injectAll h.ep 0 r.1 r.2) (respond .rxChunk .done)

/-- RX_CHUNK (R106): the chunk bound is checked before LOCK is asked for. -/
def execRxChunk (chunk : List Byte) (s : State) : Out :=
  if s.params.maxChunk < chunk.length then .refused .chunkTooLong else withLock (rxBody chunk) s

/-! ## Transmit path -/

/-- RELEASE, then the response (R113). -/
def releaseAndRespond (token : Token) (o : TxOutcome) (s : State) : Out :=
  andThen (callOut (.release token) s) (respond .txFrame (.tx o))

/-- TX_FRAME's body (R109), its checks in the order of R125. -/
def txBody (tf : TxFrame) (token : Token) (s : State) : Out :=
  match s.bstate with
  | .unbound => releaseAndRespond token .failedNotBound (s.raise (.txWhileUnbound tf))
  | .bound =>
    if MAXLEN < tf.length.toNat then releaseAndRespond token .failedMalformed (s.raise (.txMalformed tf))
    else
      match encodeFrame s.params.encodeIdMode tf with
      | none => .refused .encodeIdOverrange
      | some bytes =>
        match s.hnd with
        | none => .fault .noHandles
        | some h =>
          let r := s.input.write
          andThen (callOut (.write h.tp bytes r) s) fun s =>
            match r with
            | .ok => releaseAndRespond token .sent s
            | .fail => releaseAndRespond token .failedTransport (s.raise (.txTransportFail tf))

/-- TX_FRAME (R109). -/
def execTxFrame (tf : TxFrame) (token : Token) (s : State) : Out := withLock (txBody tf token) s

/-! ## Reserved command codes -/

/-- Code 0x0 (R73): no operation; refused, with no change of state. -/
def execReserved0 (_s : State) : Out := .refused (.reservedCommand 0x0)

/-- Code 0x7 (R73). -/
def execReserved7 (_s : State) : Out := .refused (.reservedCommand 0x7)

/-- Codes 0x8 .. 0xF (R73). -/
def execReserved8F (low : BitVec 3) (_s : State) : Out := .refused (.reservedCommand ((1 : BitVec 1) ++ low))

end Sys2Proof.Machine
end

