-- ==== Sys2Proof/Machine/Wire.lean ====
section
/-! DEFINITION. The rows of the header classification (R76 of 30_encoding.md): each is one pass of FEED's scan over a window whose
front the row's header is (R89, R90, R91). The header's fields come from the instruction, the bytes at hand and the payload from W, as
an instruction's own words and what stands after them do on a machine with a program (log 7). -/

namespace Sys2Proof.Machine

/-- What a pass does with a verdict: RESYNC drops one byte (R89), INCOMPLETE keeps the window (R90), FRAME drops the bytes consumed
(R91). -/
def passBuf (r : DecodeResult) (m : Memory) : Memory :=
  match r with
  | .resync => m.dropFront 1
  | .incomplete => m
  | .frame _ k => m.dropFront k

/-- One pass with a verdict that may depend on the window, its verdict handed back. -/
def scanPass (verdict : List Byte → DecodeResult) (s : State) : Out :=
  match s.buf with
  | none => .fault .noReceiveState
  | some m => .next { s with buf := some (passBuf (verdict m.window) m), ret := some (.decoded (verdict m.window)) }

/-- Row 1 under each order (R76, R82): INCOMPLETE, but under RESYNC_FIRST a first byte that is not SYNC is RESYNC. -/
def shortVerdict (order : DecodeOrder) (bytes : List Byte) : DecodeResult :=
  match order, bytes with
  | .resyncFirst, b0 :: _ => if b0 ≠ SYNC then .resync else .incomplete
  | _, _ => .incomplete

/-- Rows 4 and 5 for a legal length (R76): FRAME when `4 + L` bytes are at hand, INCOMPLETE otherwise. -/
def frameVerdict (len : Nat) (id : Id16) (w : List Byte) : DecodeResult :=
  if w.length < HDR + len then .incomplete
  else .frame (mkFrame id len ((w.drop HDR).take len)) (HDR + len)

/-- WIRE_SHORT (R76 row 1). -/
def execWireShort (bytes : List Byte) (s : State) : Out := scanPass (fun _ => shortVerdict s.params.decodeOrder bytes) s

/-- WIRE_NOSYNC (R76 row 2): the header is not read further. -/
def execWireNosync (_sync : Byte) (_id : Id16) (_len : Byte) (s : State) : Out := scanPass (fun _ => .resync) s

/-- WIRE_BADLEN (R76 row 3). -/
def execWireBadlen (_id : Id16) (_len : Byte) (s : State) : Out := scanPass (fun _ => .resync) s

/-- WIRE_FRAME_L0 (R76 rows 4 and 5). -/
def execWireFrameL0 (id : Id16) (s : State) : Out := scanPass (frameVerdict 0 id) s

/-- WIRE_FRAME_L1 (R76 rows 4 and 5). -/
def execWireFrameL1 (id : Id16) (s : State) : Out := scanPass (frameVerdict 1 id) s

/-- WIRE_FRAME_L2 (R76 rows 4 and 5). -/
def execWireFrameL2 (id : Id16) (s : State) : Out := scanPass (frameVerdict 2 id) s

/-- WIRE_FRAME_L3 (R76 rows 4 and 5). -/
def execWireFrameL3 (id : Id16) (s : State) : Out := scanPass (frameVerdict 3 id) s

/-- WIRE_FRAME_L4 (R76 rows 4 and 5). -/
def execWireFrameL4 (id : Id16) (s : State) : Out := scanPass (frameVerdict 4 id) s

/-- WIRE_FRAME_L5 (R76 rows 4 and 5). -/
def execWireFrameL5 (id : Id16) (s : State) : Out := scanPass (frameVerdict 5 id) s

/-- WIRE_FRAME_L6 (R76 rows 4 and 5). -/
def execWireFrameL6 (id : Id16) (s : State) : Out := scanPass (frameVerdict 6 id) s

/-- WIRE_FRAME_L7 (R76 rows 4 and 5). -/
def execWireFrameL7 (id : Id16) (s : State) : Out := scanPass (frameVerdict 7 id) s

/-- WIRE_FRAME_L8 (R76 rows 4 and 5). -/
def execWireFrameL8 (id : Id16) (s : State) : Out := scanPass (frameVerdict 8 id) s

end Sys2Proof.Machine
end

