-- ==== Sys2Proof/Machine/Dispatch.lean ====
section
/-! DEFINITION. One arm for each constructor of `Instr`. -/

namespace Sys2Proof.Machine

/-- The meaning of an instruction. -/
def exec (i : Instr) (s : State) : Host.Outcome State Fault Refusal :=
  match i with
  | .bind name transport cfg => Sys2Proof.Machine.execBind name transport cfg s
  | .unbind => Sys2Proof.Machine.execUnbind s
  | .rxChunk chunk => Sys2Proof.Machine.execRxChunk chunk s
  | .txFrame tf token => Sys2Proof.Machine.execTxFrame tf token s
  | .transportClose => Sys2Proof.Machine.execTransportClose s
  | .endpointRemove => Sys2Proof.Machine.execEndpointRemove s
  | .reserved0 => Sys2Proof.Machine.execReserved0 s
  | .reserved7 => Sys2Proof.Machine.execReserved7 s
  | .reserved8F low => Sys2Proof.Machine.execReserved8F low s
  | .encode f => Sys2Proof.Machine.execEncode f s
  | .decode w off => Sys2Proof.Machine.execDecode w off s
  | .feed chunk => Sys2Proof.Machine.execFeed chunk s
  | .wireShort bytes => Sys2Proof.Machine.execWireShort bytes s
  | .wireNosync sync id len => Sys2Proof.Machine.execWireNosync sync id len s
  | .wireBadlen id len => Sys2Proof.Machine.execWireBadlen id len s
  | .wireFrameL0 id => Sys2Proof.Machine.execWireFrameL0 id s
  | .wireFrameL1 id => Sys2Proof.Machine.execWireFrameL1 id s
  | .wireFrameL2 id => Sys2Proof.Machine.execWireFrameL2 id s
  | .wireFrameL3 id => Sys2Proof.Machine.execWireFrameL3 id s
  | .wireFrameL4 id => Sys2Proof.Machine.execWireFrameL4 id s
  | .wireFrameL5 id => Sys2Proof.Machine.execWireFrameL5 id s
  | .wireFrameL6 id => Sys2Proof.Machine.execWireFrameL6 id s
  | .wireFrameL7 id => Sys2Proof.Machine.execWireFrameL7 id s
  | .wireFrameL8 id => Sys2Proof.Machine.execWireFrameL8 id s

end Sys2Proof.Machine
end

