-- ==== Sys2Proof/Machine/Fetch.lean ====
section
/-! DEFINITION. Which instruction the next step runs, and where a word of the opcode table has to stand for that (log 10, log 12).
The block fetches nothing (R43): commands arrive on its ports (R72). -/

namespace Sys2Proof.Machine

/-- What the next step finds. -/
inductive Fetched where
  /-- No command has been issued: the block waits (R135). -/
  | idle
  /-- The next command's agent waits for LOCK, which another agent holds (R22). -/
  | waits
  /-- A scan pass is asked for and there is no window (R23). -/
  | noWindow
  /-- An instruction, and the state it runs in. -/
  | run (i : Instr) (s : State)
  deriving DecidableEq, Repr

/-- Whether an instruction asks for LOCK: every command does (R22, R50), but an RX_CHUNK whose chunk is too long is refused before it asks
(R106). A reserved code is refused at once (R73, log 15). -/
def asksLock (i : Instr) (s : State) : Bool :=
  i.command.isSome && !(match i with | .rxChunk chunk => decide (s.params.maxChunk < chunk.length) | _ => false)

/-- An internal function that is asked for runs first, inside the body that calls it. Otherwise the first command of the inbox takes
LOCK, with its own inputs. -/
def fetch (s : State) : Fetched :=
  match s.inner with
  | some (.func c) => .run (decode (.func c)) { s with inner := none }
  | some .scanPass =>
    match s.buf with
    | none => .noWindow
    | some m => .run (decode (.window m.window)) { s with inner := none }
  | none =>
    match s.inbox with
    | [] => .idle
    | r :: rest =>
      if s.lock.blocks r.input.agent && asksLock (decode (.command r.op r.args)) s then .waits
      else .run (decode (.command r.op r.args)) { s with inbox := rest, input := r.input }

/-- A command word of the table, with operand words of zeros, at the head of the inbox of a block whose LOCK is free. Its inputs are
those that stand in the state. -/
def placeCommand (op : OpCode) (s : State) : State :=
  { s with inner := none, lock := .free, inbox := ⟨op, CmdArgs.zero, s.input⟩ :: s.inbox }

/-- A wire header at the front of the window of a Bound block, with a scan pass asked for. A block that is not Bound becomes so, with
the handles of zeros. -/
def placeWindow (w : List Byte) (s : State) : State :=
  { s with
    inner := some .scanPass
    bstate := .bound
    buf := some (Memory.ofWindow w)
    hnd := some (s.hnd.getD ⟨⟨0⟩, ⟨0⟩, ⟨0⟩⟩) }

/-- Where a table word of `nbits` bits stands for the next step to run it. -/
def placeWord (s : State) (nbits w : Nat) : State :=
  if nbits = 8 then placeCommand (BitVec.ofNat 4 w) s else placeWindow (windowOfWord nbits w) s

end Sys2Proof.Machine
end

