-- ==== Sys2Proof/Machine/Step.lean ====
section
/-! DEFINITION. One step of the machine: one operation, whole (R50). -/

namespace Sys2Proof.Machine

/-- Run the instruction that is fetched; an idle block and a waiting agent leave the state as it is. -/
def step (s : State) : Host.Outcome State Fault Refusal :=
  match fetch s with
  | .idle => .next s
  | .waits => .next s
  | .noWindow => .fault .noReceiveState
  | .run i s' => exec i s'

/-- The state with a word of the opcode table stored where the next step fetches it (log 10). -/
def State.withFetchWord (s : State) (nbits w : Nat) : State := placeWord s nbits w

end Sys2Proof.Machine
end

