-- ==== Sys2Proof/Safety.lean ====
section
/-! DEFINITION. What a model observes of a run (R146 of 70_reset_and_hazards.md), the invariants of the block (R37, R38 of
10_state.md), and the words statements use: the frames injected, the tokens released, the responses made, the orders in which agents'
commands can take LOCK (R60 of 20_memory.md). -/

namespace Sys2Proof.Machine

/-! ## Observation -/

/-- What is observed of a finished run (R146): TRACE, BSTATE and, when Bound, W. -/
structure Observation where
  trace : List TraceEntry
  bstate : BState
  window : Option (List Byte)
  deriving DecidableEq, Repr

/-- R146. -/
def State.observe (s : State) : Observation :=
  ⟨s.trace, s.bstate, match s.bstate with | .bound => s.window | .unbound => none⟩

/-- A run has ended when every issued command has returned and LOCK is free (R146). -/
abbrev State.ended (s : State) : Prop := s.inbox = [] ∧ s.inner = none ∧ s.lock = .free

/-- The status word an implementation may expose (R34): BSTATE in bit 0, PENDING from bit 1 on. No rule depends on it (log 17). -/
def State.statusWord (s : State) : Nat := s.bstate.code + 2 * s.pending.getD 0

/-- The inbox is an order in which the agents' programs can take LOCK (R60): each agent's own commands stand in it in the order that
agent issued them. -/
def LockOrder (programs : Agent → List Request) (inbox : List Request) : Prop :=
  ∀ a, inbox.filter (fun r => decide (r.input.agent = a)) = programs a

/-! ## Invariants -/

/-- R37 (a): Bound if and only if BUF, PENDING and HND exist. -/
abbrev State.lifecycle (s : State) : Prop :=
  (s.buf.isSome = decide (s.bstate = .bound)) ∧ (s.hnd.isSome = decide (s.bstate = .bound))

/-- R24, R26 and R37 (b): the bytes of BUF that hold a value are those at 0 .. PENDING-1, and PENDING is at most CAPACITY. -/
def State.bounded (s : State) : Prop := ∀ m, s.buf = some m → m.wf ∧ m.pending ≤ s.params.capacity

/-- R38: the window is stable. -/
def State.stable (s : State) : Prop := ∀ m, s.buf = some m → decodeAt s.params.decodeOrder m.window 0 = .incomplete

/-- R32: every frame that was injected is a Frame. -/
def State.framesLegal (s : State) : Prop := ∀ ep f r, TraceEntry.inject ep f r ∈ s.trace → f.wf

/-- What holds between commands (R37: in every state where LOCK is free): the block's own invariants, with no internal function
asked for from outside a command's body. -/
structure State.Inv (s : State) : Prop where
  idle : s.inner = none
  free : s.lock = .free
  lifecycle : s.lifecycle
  bounded : s.bounded
  stable : s.stable
  framesLegal : s.framesLegal

/-- The host keeps its obligations (a) and (b) of R131 in the calls of the current command. -/
abbrev State.lawful (s : State) : Prop := s.input.breach = none

/-- A command's body may start at once: LOCK is free and the host keeps its obligations. -/
abbrev State.ready (s : State) : Prop := s.lock = .free ∧ s.lawful

/-- How the run is stuck under a host that breaks an obligation this way (R53, R131). -/
def BreachKind.stuck : BreachKind → Fault
  | .reenters => .lockReentered
  | .neverReturns => .callNeverReturns

/-- The same state under a host that keeps its obligations for the next `n` calls and breaks one in the call after them (log 5). -/
def State.breaks (s : State) (n : Nat) (k : BreachKind) : State := { s with input := { s.input with breach := some ⟨n, k⟩ } }

/-! ## Words about traces -/

/-- An entry that calls a collaborator: the calls of R31, RELEASE aside. -/
def TraceEntry.isCollaboratorCall : TraceEntry → Bool
  | .resolve _ _ => true
  | .openTransport _ _ => true
  | .config _ => true
  | .attachRx => true
  | .install _ => true
  | .restore _ => true
  | .detachRx => true
  | .inject _ _ _ => true
  | .write _ _ _ => true
  | .release _ => false
  | .evt _ _ => false
  | .resp _ _ => false

/-- A response entry. -/
def TraceEntry.isResponse : TraceEntry → Bool
  | .resp _ _ => true
  | .resolve _ _ => false
  | .openTransport _ _ => false
  | .config _ => false
  | .attachRx => false
  | .install _ => false
  | .restore _ => false
  | .detachRx => false
  | .inject _ _ _ => false
  | .write _ _ _ => false
  | .release _ => false
  | .evt _ _ => false

/-- A RELEASE entry. -/
def TraceEntry.isRelease : TraceEntry → Bool
  | .release _ => true
  | .resolve _ _ => false
  | .openTransport _ _ => false
  | .config _ => false
  | .attachRx => false
  | .install _ => false
  | .restore _ => false
  | .detachRx => false
  | .inject _ _ _ => false
  | .write _ _ _ => false
  | .evt _ _ => false
  | .resp _ _ => false

/-- An entry the block makes by a call (R16 `call P.op`): a collaborator call or a RELEASE. -/
def TraceEntry.isCall (e : TraceEntry) : Bool := e.isCollaboratorCall || e.isRelease

/-- The Overflow event (R116: code 0x01). -/
def TraceEntry.isOverflow : TraceEntry → Bool
  | .evt code _ => decide (code = 0x01)
  | .resolve _ _ => false
  | .openTransport _ _ => false
  | .config _ => false
  | .attachRx => false
  | .install _ => false
  | .restore _ => false
  | .detachRx => false
  | .inject _ _ _ => false
  | .write _ _ _ => false
  | .release _ => false
  | .resp _ _ => false

/-- The entries the injections of some frames leave, from the k-th INJECT of the command on (R106, R107): each frame with its answer,
and an InjectFail event after each FAIL. -/
def injectEntries (ep : Handle) (i : Input) : Nat → List Frame → List TraceEntry
  | _, [] => []
  | k, f :: fs =>
    match i.injects.getD k i.injectRest with
    | .ok => .inject ep f .ok :: injectEntries ep i (k + 1) fs
    | .fail => .inject ep f .fail :: .evt 0x02 (.frame f) :: injectEntries ep i (k + 1) fs

/-- What one pass of the scan does with the row of a legal header (R76 rows 4 and 5, R90, R91), whatever the state: with fewer than
`4 + L` bytes at hand the window stays, otherwise the frame is yielded and its bytes are dropped; nothing else changes. -/
def FrameRowPass (i : Instr) (len : Nat) (id : Id16) : Prop :=
  ∀ (s : State) (m : Memory), s.buf = some m →
    (m.pending < 4 + len → exec i s = .next { s with ret := some (.decoded .incomplete) }) ∧
    (4 + len ≤ m.pending →
      exec i s = .next
        { s with
          buf := some (m.dropFront (4 + len))
          ret := some (.decoded (.frame ⟨(id &&& 0x7FF).truncate 11, BitVec.ofNat 4 len, (m.window.drop 4).take len⟩ (4 + len))) })

/-- The bytes a list of frames took on the wire: `4 + L` each (R67). -/
def wireBytes : List Frame → Nat
  | [] => 0
  | f :: fs => 4 + f.length.toNat + wireBytes fs

end Sys2Proof.Machine
end

