-- ==== Sys2Proof/Certificates/Slice0/Obligations.lean ====
section
/-! DEFINITION. The statements for the provers, from the numbered rules of spec/. Nothing here is proved. A statement about a next
state is an equation of whole states wherever the rules give the whole state, so that it is the frame too. `s.ready` is LOCK free and
a host that keeps obligations (a) and (b) of R131; every answer of the host and every order of commands is a value of the state the
statement quantifies over. -/

section
open Sys2Proof Sys2Proof.Machine

/-! ## Encodings -/

/-- R72, R73, R76: decoding the words of a well-formed instruction gives it back, every operand with it. -/
def Obligations.DecodeEncodeRoundTrip : Prop :=
  ∀ i : Instr, wellFormed i = true → Sys2Proof.decode (Sys2Proof.encode i) = i

/-- R66, R76: every window has exactly one well-formed row, and the row keeps each of the four header bytes. -/
def Obligations.WindowDecodingKeepsHeaderBytes : Prop :=
  ∀ w : List Byte, wellFormed (Sys2Proof.decode (.window w)) = true ∧
    Sys2Proof.encode (Sys2Proof.decode (.window w)) = .window (w.take 4)

/-- R72, R74: the six command codes, each with its own operands, and the port each comes in on. -/
def Obligations.CommandCodesOfThePorts : Prop :=
  ∀ a : CmdArgs,
    Sys2Proof.decode (.command 0x1 a) = .bind a.name a.transport a.cfg ∧ Command.bind.port = .ctrl ∧
    Sys2Proof.decode (.command 0x2 a) = .unbind ∧ Command.unbind.port = .ctrl ∧
    Sys2Proof.decode (.command 0x3 a) = .rxChunk a.chunk ∧ Command.rxChunk.port = .rxIn ∧
    Sys2Proof.decode (.command 0x4 a) = .txFrame a.tf a.token ∧ Command.txFrame.port = .txReq ∧
    Sys2Proof.decode (.command 0x5 a) = .transportClose ∧ Command.transportClose.port = .hostEv ∧
    Sys2Proof.decode (.command 0x6 a) = .endpointRemove ∧ Command.endpointRemove.port = .hostEv

/-- R73: a reserved code is refused, as an instruction and as the command a step takes; a refusal has no next state. -/
def Obligations.ReservedCodesAreRefused : Prop :=
  (∀ s : State, exec .reserved0 s = .refused (.reservedCommand 0x0) ∧ exec .reserved7 s = .refused (.reservedCommand 0x7) ∧
    ∀ low, exec (.reserved8F low) s = .refused (.reservedCommand ((1 : BitVec 1) ++ low))) ∧
  (∀ (op : OpCode) (a : CmdArgs) (s : State), op = 0x0 ∨ 0x7 ≤ op →
    exec (Sys2Proof.decode (.command op a)) s = .refused (.reservedCommand op)) ∧
  (∀ (s : State) (r : Request) (rest : List Request), s.inner = none → s.inbox = r :: rest →
    r.op = 0x0 ∨ 0x7 ≤ r.op → step s = .refused (.reservedCommand r.op))

/-- Words written out from the tables of R66, R72, R73 and R76, one or more for each format that has bits. How a table word lies (a
command code in an 8-bit word, the header word H, operands and payload bytes of zeros) is the model's reading, log 12. -/
def Obligations.SampleWordsDecode : Prop :=
  decodeTableWord 8 0x3 = some (.rxChunk []) ∧
  decodeTableWord 8 0x5 = some .transportClose ∧
  decodeTableWord 8 0x7 = some .reserved7 ∧
  decodeTableWord 32 0xAA012308 = some (.wireFrameL8 0x0123) ∧
  decodeTableWord 32 0xAA000109 = some (.wireBadlen 0x0001 0x09) ∧
  decodeTableWord 32 0xFF000100 = some (.wireNosync 0xFF 0x0001 0x00)

/-! ## BUF -/

/-- R58: after `Append(chunk)` the window is the old one and then the chunk, byte by byte, and nothing else holds a value. -/
def Obligations.AppendPutsTheChunkAfterTheWindow : Prop :=
  ∀ (m : Memory) (chunk : List Byte), m.wf →
    (m.append chunk).wf ∧ (m.append chunk).window = m.window ++ chunk ∧ (m.append chunk).pending = m.pending + chunk.length ∧
    (∀ i, i < m.pending → (m.append chunk).read i = m.read i) ∧
    (∀ i, (m.append chunk).read (m.pending + i) = chunk[i]?)

/-- R59: after `DropFront(k)` byte i+k of BUF stands at index i, and no byte at or past the new PENDING holds a value. -/
def Obligations.DropFrontShiftsTheRestToIndexZero : Prop :=
  ∀ (m : Memory) (k : Nat), m.wf → 1 ≤ k → k ≤ m.pending →
    (m.dropFront k).wf ∧ (m.dropFront k).window = m.window.drop k ∧ (m.dropFront k).pending = m.pending - k ∧
    (∀ i, i < m.pending - k → (m.dropFront k).read i = m.read (i + k)) ∧
    (∀ i, m.pending - k ≤ i → (m.dropFront k).read i = none)

/-! ## FrameCodec -/

/-- R81: ENCODE of a frame with a length of at most 8 hands back the wire frame, in each mode, and writes no state; under REFUSE an
identifier above 0x7FF is refused. -/
def Obligations.EncodeGivesTheWireFrame : Prop :=
  ∀ (s : State) (f : TxFrame), f.length.toNat ≤ 8 →
    let wire := fun v : Id16 => ([0xAA, v.extractLsb' 8 8, v.extractLsb' 0 8, f.length] : List Byte) ++
      (([f.lanes.p0, f.lanes.p1, f.lanes.p2, f.lanes.p3, f.lanes.p4, f.lanes.p5, f.lanes.p6, f.lanes.p7] : List Byte).take
        f.length.toNat)
    (s.params.encodeIdMode = .unmasked → exec (.encode f) s = .next { s with ret := some (.bytes (wire f.id)) }) ∧
    (s.params.encodeIdMode = .mask11 → exec (.encode f) s = .next { s with ret := some (.bytes (wire (f.id &&& 0x7FF))) }) ∧
    (s.params.encodeIdMode = .refuse → f.id ≤ 0x7FF → exec (.encode f) s = .next { s with ret := some (.bytes (wire f.id)) }) ∧
    (s.params.encodeIdMode = .refuse → 0x7FF < f.id → exec (.encode f) s = .refused .encodeIdOverrange) ∧
    (f.id ≤ 0x7FF → exec (.encode f) s = .next { s with ret := some (.bytes (wire f.id)) })

/-- R82, R76: DECODE at an offset, test by test, under each order. -/
def Obligations.DecodeTestsInOrder : Prop :=
  ∀ (order : DecodeOrder) (w : List Byte) (off : Nat), off ≤ w.length →
    (w.length - off = 0 → decodeAt order w off = .incomplete) ∧
    (order = .incompleteFirst → w.length - off < 4 → decodeAt order w off = .incomplete) ∧
    (∀ b0, order = .resyncFirst ∨ 4 ≤ w.length - off → w[off]? = some b0 → b0 ≠ 0xAA → decodeAt order w off = .resync) ∧
    (w[off]? = some 0xAA → w.length - off < 4 → decodeAt order w off = .incomplete) ∧
    (∀ b1 b2 b3, w[off]? = some 0xAA → w[off + 1]? = some b1 → w[off + 2]? = some b2 → w[off + 3]? = some b3 →
      (8 < b3.toNat → decodeAt order w off = .resync) ∧
      (b3.toNat ≤ 8 → w.length - off < 4 + b3.toNat → decodeAt order w off = .incomplete) ∧
      (b3.toNat ≤ 8 → 4 + b3.toNat ≤ w.length - off →
        decodeAt order w off =
          .frame ⟨(((b1.zeroExtend 16 <<< (8 : Nat)) ||| b2.zeroExtend 16) &&& (0x7FF : BitVec 16)).truncate 11,
            BitVec.ofNat 4 b3.toNat, (w.drop (off + 4)).take b3.toNat⟩ (4 + b3.toNat)))

/-- R82, R83: the instruction DECODE hands its verdict back and writes no state. -/
def Obligations.DecodeHandsBackItsVerdict : Prop :=
  ∀ (s : State) (w : List Byte) (off : Nat), off ≤ w.length →
    exec (.decode w off) s = .next { s with ret := some (.decoded (decodeAt s.params.decodeOrder w off)) }

/-- R81, R82 and log 13: outside its operand bound an internal function stops under a name of its own. The model's choice. -/
def Obligations.InternalFunctionsStopOutsideTheirOperands : Prop :=
  (∀ (s : State) (f : TxFrame), 8 < f.length.toNat → exec (.encode f) s = .fault .encodeLength) ∧
  (∀ (s : State) (w : List Byte) (off : Nat), w.length < off → exec (.decode w off) s = .fault .decodeOffset)

/-- R82: the two orders give one verdict but for 1 to 3 bytes of which the first is not SYNC, where one waits and the other
resynchronizes. -/
def Obligations.OrdersDifferOnlyOnShortNoise : Prop :=
  ∀ w : List Byte,
    (w.length = 0 ∨ 4 ≤ w.length ∨ w[0]? = some 0xAA → decodeAt .incompleteFirst w 0 = decodeAt .resyncFirst w 0) ∧
    (0 < w.length → w.length < 4 → w[0]? ≠ some 0xAA →
      decodeAt .incompleteFirst w 0 = .incomplete ∧ decodeAt .resyncFirst w 0 = .resync)

/-- R84: DECODE undoes ENCODE, whatever bytes follow, in every mode and order; an identifier of at most 0x7FF comes back, and a longer
one comes back masked to 11 bits. -/
def Obligations.DecodeUndoesEncode : Prop :=
  ∀ (order : DecodeOrder) (mode : EncodeIdMode) (f : TxFrame) (bs t : List Byte),
    f.length.toNat ≤ 8 → encodeFrame mode f = some bs →
      decodeAt order (bs ++ t) 0 =
        .frame ⟨(f.id &&& 0x7FF).truncate 11, f.length.truncate 4,
          ([f.lanes.p0, f.lanes.p1, f.lanes.p2, f.lanes.p3, f.lanes.p4, f.lanes.p5, f.lanes.p6, f.lanes.p7] : List Byte).take
            f.length.toNat⟩ (4 + f.length.toNat) ∧
      (f.id ≤ 0x7FF → ((f.id &&& 0x7FF).truncate 11 : BitVec 11).toNat = f.id.toNat)

/-- R96: a RESYNC or FRAME verdict stays the same when more bytes are appended. -/
def Obligations.VerdictSurvivesMoreBytes : Prop :=
  ∀ (order : DecodeOrder) (w t : List Byte), decodeAt order w 0 ≠ .incomplete → decodeAt order (w ++ t) 0 = decodeAt order w 0

/-- R82: DECODE never reads a byte past the frame it returns: the bytes consumed decide alone. -/
def Obligations.DecodeReadsOnlyTheFramesBytes : Prop :=
  ∀ (order : DecodeOrder) (w : List Byte) (f : Frame) (k : Nat), decodeAt order w 0 = .frame f k →
    k ≤ w.length ∧ ∀ t : List Byte, decodeAt order (w.take k ++ t) 0 = .frame f k

/-- R33, R81: payload lanes at or past `length` do not reach the wire: two TxFrames that differ only there have one encoding in every
mode, ENCODE ends the same for both in every state, and TX_FRAME too on a Bound block whose WRITE answers OK. The EVT entries of the
failure outcomes do hold the whole TxFrame (R116; all eight lanes is the model's choice, log 22). -/
def Obligations.UnreadLanesDoNotMatter : Prop :=
  ∀ f g : TxFrame, f.id = g.id → f.length = g.length → f.length.toNat ≤ 8 →
    (∀ i, i < f.length.toNat → (lanesList f.lanes)[i]? = (lanesList g.lanes)[i]?) →
    (∀ mode : EncodeIdMode, encodeFrame mode f = encodeFrame mode g) ∧
    (∀ s : State, exec (.encode f) s = exec (.encode g) s) ∧
    (∀ (k : Token) (s : State), s.bstate = .bound → s.input.write = .ok → exec (.txFrame f k) s = exec (.txFrame g k) s)

/-! ## The rows of the header classification -/

/-- R76, R82, R89, R90, R91: run on its own window, the row a window selects gives DECODE's verdict and does what the scan does with
it, under both orders. -/
def Obligations.TheSelectedRowActsOnDecodesVerdict : Prop :=
  ∀ (s : State) (m : Memory), s.buf = some m →
    exec (Sys2Proof.decode (.window m.window)) s = .next
      { s with
        buf := some (match decodeAt s.params.decodeOrder m.window 0 with
          | .resync => m.dropFront 1
          | .incomplete => m
          | .frame _ k => m.dropFront k)
        ret := some (.decoded (decodeAt s.params.decodeOrder m.window 0)) }

/-- R76 row 1: with fewer than 4 bytes the window stays, but under RESYNC_FIRST a first byte that is not SYNC is dropped. That the row acts
by its own operand, of any length, on any window is the model's choice, log 7; TheSelectedRowActsOnDecodesVerdict is the row on its own
window. -/
def Obligations.ShortRowWaitsOrResyncs : Prop :=
  ∀ (s : State) (m : Memory) (bytes : List Byte), s.buf = some m →
    (s.params.decodeOrder = .incompleteFirst ∨ bytes = [] ∨ bytes[0]? = some 0xAA →
      exec (.wireShort bytes) s = .next { s with ret := some (.decoded .incomplete) }) ∧
    (∀ b0 t, s.params.decodeOrder = .resyncFirst → bytes = b0 :: t → b0 ≠ 0xAA →
      exec (.wireShort bytes) s = .next { s with buf := some (m.dropFront 1), ret := some (.decoded .resync) })

/-- R76 rows 2 and 3, R89: a wrong Sync byte and an illegal Length each drop exactly one byte, the one at index 0, and change nothing else.
That the two rows act so for any operands, on any window (the empty one stays empty), is the model's choice, log 7. -/
def Obligations.ResyncRowsDropOneByte : Prop :=
  ∀ (s : State) (m : Memory), s.buf = some m →
    (∀ sync id len, exec (.wireNosync sync id len) s =
      .next { s with buf := some (m.dropFront 1), ret := some (.decoded .resync) }) ∧
    (∀ id len, exec (.wireBadlen id len) s =
      .next { s with buf := some (m.dropFront 1), ret := some (.decoded .resync) })

/-- R76 rows 4 and 5, R69, R90, R91: the nine legal lengths. That the row takes the identifier from its operand and the bytes at hand and
the payload from the window, whatever header stands at its front, is the model's choice, log 7. -/
def Obligations.FrameRowsYieldOrWait : Prop :=
  ∀ id : Id16,
    FrameRowPass (.wireFrameL0 id) 0 id ∧ FrameRowPass (.wireFrameL1 id) 1 id ∧ FrameRowPass (.wireFrameL2 id) 2 id ∧
    FrameRowPass (.wireFrameL3 id) 3 id ∧ FrameRowPass (.wireFrameL4 id) 4 id ∧ FrameRowPass (.wireFrameL5 id) 5 id ∧
    FrameRowPass (.wireFrameL6 id) 6 id ∧ FrameRowPass (.wireFrameL7 id) 7 id ∧ FrameRowPass (.wireFrameL8 id) 8 id

/-! ## RxAssembler -/

/-- R89, R90, R91: the scan as a recursion without a bound on its passes. -/
def Obligations.ScanFollowsItsSteps : Prop :=
  ∀ (order : DecodeOrder) (w : List Byte),
    (decodeAt order w 0 = .resync → scan order w = scan order (w.drop 1)) ∧
    (decodeAt order w 0 = .incomplete → scan order w = ⟨[], w⟩) ∧
    (∀ f n, decodeAt order w 0 = .frame f n →
      n = 4 + f.length.toNat ∧ scan order w = ⟨f :: (scan order (w.drop n)).frames, (scan order (w.drop n)).rest⟩)

/-- R85, R87, R88: FEED of an admissible chunk. Without overflow the chunk is appended to the window and scanned; with overflow the
loss is recorded, the window is emptied, and the chunk alone is scanned. Nothing else changes. -/
def Obligations.FeedAppendsAndScans : Prop :=
  ∀ (s : State) (m : Memory) (chunk : List Byte), s.buf = some m → chunk.length ≤ s.params.capacity →
    (m.pending + chunk.length ≤ s.params.capacity →
      exec (.feed chunk) s = .next
        { s with
          buf := some (Memory.ofWindow (scan s.params.decodeOrder (m.window ++ chunk)).rest)
          ret := some (.frames (scan s.params.decodeOrder (m.window ++ chunk)).frames) }) ∧
    (s.params.capacity < m.pending + chunk.length →
      exec (.feed chunk) s = .next
        { s with
          trace := s.trace ++ [.evt 0x01 (.loss m.pending chunk.length)]
          buf := some (Memory.ofWindow (scan s.params.decodeOrder chunk).rest)
          ret := some (.frames (scan s.params.decodeOrder chunk).frames) })

/-- R86: a chunk longer than MAX_CHUNK is refused, by RX_CHUNK and by FEED. -/
def Obligations.LongChunksAreRefused : Prop :=
  ∀ (s : State) (chunk : List Byte), s.params.capacity < chunk.length →
    exec (.rxChunk chunk) s = .refused .chunkTooLong ∧ exec (.feed chunk) s = .refused .chunkTooLong

/-- R38: the stable windows, under each order. -/
def Obligations.StableWindowsByOrder : Prop :=
  ∀ w : List Byte,
    (decodeAt .incompleteFirst w 0 = .incomplete ↔
      w.length < 4 ∨ (w[0]? = some 0xAA ∧ ∃ b3, w[3]? = some b3 ∧ b3.toNat ≤ 8 ∧ w.length < 4 + b3.toNat)) ∧
    (decodeAt .resyncFirst w 0 = .incomplete ↔
      w = [] ∨ (w[0]? = some 0xAA ∧ w.length < 4) ∨
        (w[0]? = some 0xAA ∧ ∃ b3, w[3]? = some b3 ∧ b3.toNat ≤ 8 ∧ w.length < 4 + b3.toNat)) ∧
    (∀ order, decodeAt order w 0 = .incomplete → w.length ≤ 11)

/-- R94: after FEED returns, the retained window is INCOMPLETE, and a second FEED of the empty chunk yields nothing and changes nothing. -/
def Obligations.FeedLeavesAStableWindow : Prop :=
  ∀ (s t : State) (chunk : List Byte), exec (.feed chunk) s = .next t →
    t.stable ∧ exec (.feed []) t = .next { t with ret := some (.frames []) }

/-- R95: FEED of the empty chunk, from a stable window, returns no frame and leaves the state unchanged. -/
def Obligations.EmptyChunkChangesNothing : Prop :=
  ∀ s : State, s.buf.isSome = true → s.bounded → s.stable → exec (.feed []) s = .next { s with ret := some (.frames []) }

/-- R96: splitting the stream between chunks changes neither the frames found nor the window left, and none of the three calls
overflows. -/
def Obligations.ChunkingDoesNotChangeTheFrames : Prop :=
  ∀ (s : State) (m : Memory) (a b : List Byte), s.buf = some m → (a ++ b).length ≤ s.params.maxChunk →
    m.pending + a.length + b.length ≤ s.params.capacity →
    ∃ (t u v : State) (fa fb : List Frame),
      exec (.feed a) s = .next t ∧ t.ret = some (.frames fa) ∧
      exec (.feed b) t = .next u ∧ u.ret = some (.frames fb) ∧
      exec (.feed (a ++ b)) s = .next v ∧ v.ret = some (.frames (fa ++ fb)) ∧
      v.buf = u.buf ∧ t.trace = s.trace ∧ u.trace = s.trace ∧ v.trace = s.trace ∧
      ∃ k, t.pending = some k ∧ k ≤ m.pending + a.length

/-- R32, R97: every frame FEED yields is a Frame, and its wire length is at most CAPACITY. -/
def Obligations.YieldedFramesFitTheBuffer : Prop :=
  ∀ (s t : State) (chunk : List Byte) (fs : List Frame), exec (.feed chunk) s = .next t →
    t.ret = some (.frames fs) → ∀ f ∈ fs, f.wf ∧ 4 + f.length.toNat ≤ s.params.capacity

/-- R92, R37 (c): the bytes of the yielded frames and the retained window never exceed the window scanned, and the retained window is
its end: every byte removed came from the front. -/
def Obligations.ScanRemovesBytesFromTheFront : Prop :=
  ∀ (order : DecodeOrder) (w : List Byte),
    wireBytes (scan order w).frames + (scan order w).rest.length ≤ w.length ∧ (scan order w).rest <:+ w

/-! ## BridgeController: the binding -/

/-- R99: the success path of BIND, its calls in order and the state it leaves. -/
def Obligations.BindCreatesTheBinding : Prop :=
  ∀ (s : State) (n : EndpointName) (tr : TransportId) (c : LinkCfg) (ep tp : Handle),
    s.ready → s.bstate = .unbound → s.input.resolve = .handle ep → s.input.opened = .handle tp →
    exec (.bind n tr c) s = .next
      { s with
        bstate := .bound
        buf := some (Memory.ofWindow [])
        hnd := some ⟨tp, ep, s.input.origtx⟩
        trace := s.trace ++ [.resolve n (.handle ep), .openTransport tr (.handle tp), .config c, .attachRx,
          .install s.input.origtx, .resp .bind (.bind .ok)] }

/-- R100: the first check that applies decides; a failed BIND changes nothing but TRACE, which gets the calls it made and its RESP. -/
def Obligations.BindReportsTheFirstError : Prop :=
  ∀ (s : State) (n : EndpointName) (tr : TransportId) (c : LinkCfg), s.ready →
    (s.bstate = .bound →
      exec (.bind n tr c) s = .next { s with trace := s.trace ++ [.resp .bind (.bind .alreadyBound)] }) ∧
    (s.bstate = .unbound → s.input.resolve = .notFound →
      exec (.bind n tr c) s = .next
        { s with trace := s.trace ++ [.resolve n .notFound, .resp .bind (.bind .endpointNotFound)] }) ∧
    (∀ ep, s.bstate = .unbound → s.input.resolve = .handle ep → s.input.opened = .unavailable →
      exec (.bind n tr c) s = .next
        { s with trace := s.trace ++ [.resolve n (.handle ep), .openTransport tr .unavailable,
            .resp .bind (.bind .transportUnavailable)] })

/-- R102, R103: UNBIND of a Bound block and of an Unbound one. -/
def Obligations.UnbindTearsTheBindingDown : Prop :=
  ∀ s : State, s.ready →
    (∀ h, s.bstate = .bound → s.hnd = some h →
      exec .unbind s = .next
        { s with
          bstate := .unbound
          buf := none
          hnd := none
          trace := s.trace ++ [.restore h.origtx, .detachRx, .resp .unbind .done] }) ∧
    (s.bstate = .unbound → exec .unbind s = .next { s with trace := s.trace ++ [.resp .unbind .done] })

/-- R104, R105: the host's two notices have UNBIND's effect, each with its own response. -/
def Obligations.CloseAndRemovalActAsUnbind : Prop :=
  ∀ s : State, s.ready →
    (∀ h, s.bstate = .bound → s.hnd = some h →
      exec .transportClose s = .next
        { s with
          bstate := .unbound
          buf := none
          hnd := none
          trace := s.trace ++ [.restore h.origtx, .detachRx, .resp .transportClose .done] } ∧
      exec .endpointRemove s = .next
        { s with
          bstate := .unbound
          buf := none
          hnd := none
          trace := s.trace ++ [.restore h.origtx, .detachRx, .resp .endpointRemove .done] }) ∧
    (s.bstate = .unbound →
      exec .transportClose s = .next { s with trace := s.trace ++ [.resp .transportClose .done] } ∧
      exec .endpointRemove s = .next { s with trace := s.trace ++ [.resp .endpointRemove .done] })

/-- R98: only a successful BIND makes an Unbound block Bound, and only the three tear-downs make a Bound one Unbound. -/
def Obligations.OnlyItsCommandsMoveTheBinding : Prop :=
  ∀ (i : Instr) (s t : State), exec i s = .next t →
    t.bstate = s.bstate ∨
    (s.bstate = .unbound ∧ t.bstate = .bound ∧ (∃ n tr c, i = .bind n tr c) ∧
      t.trace.getLast? = some (.resp .bind (.bind .ok))) ∨
    (s.bstate = .bound ∧ t.bstate = .unbound ∧ (i = .unbind ∨ i = .transportClose ∨ i = .endpointRemove))

/-! ## BridgeController: receive and transmit -/

/-- R106, R107, R87: RX_CHUNK on a Bound block: the Overflow event where the policy applies, every frame injected in order with an
event for each failed one, the response, and the window FEED leaves. -/
def Obligations.RxChunkInjectsEveryFrame : Prop :=
  ∀ (s : State) (m : Memory) (h : Handles) (chunk : List Byte), s.ready → s.bstate = .bound → s.buf = some m → s.hnd = some h →
    chunk.length ≤ s.params.capacity →
    let w := if s.params.capacity < m.pending + chunk.length then chunk else m.window ++ chunk
    let lost := if s.params.capacity < m.pending + chunk.length
      then [TraceEntry.evt 0x01 (.loss m.pending chunk.length)] else []
    exec (.rxChunk chunk) s = .next
      { s with
        buf := some (Memory.ofWindow (scan s.params.decodeOrder w).rest)
        trace := s.trace ++ lost ++ injectEntries h.ep s.input 0 (scan s.params.decodeOrder w).frames ++ [.resp .rxChunk .done] }

/-- R108: RX_CHUNK on an Unbound block discards the chunk, logs it and changes nothing else. -/
def Obligations.RxWhileUnboundIsANoOp : Prop :=
  ∀ (s : State) (chunk : List Byte), s.ready → s.bstate = .unbound → chunk.length ≤ s.params.capacity →
    exec (.rxChunk chunk) s = .next
      { s with trace := s.trace ++ [.evt 0x05 (.chunkLen chunk.length), .resp .rxChunk .done] }

/-- R109, R111: TX_FRAME of a legal frame on a Bound block, for each answer of the WRITE; a failed one leaves the block Bound. That the
event's info holds all eight lanes of the TxFrame is the model's choice, log 22. -/
def Obligations.TxFrameWritesTheWireFrame : Prop :=
  ∀ (s : State) (h : Handles) (tf : TxFrame) (k : Token) (bs : List Byte), s.ready → s.bstate = .bound → s.hnd = some h →
    tf.length.toNat ≤ 8 → encodeFrame s.params.encodeIdMode tf = some bs →
    (s.input.write = .ok → exec (.txFrame tf k) s = .next
      { s with trace := s.trace ++ [.write h.tp bs .ok, .release k, .resp .txFrame (.tx .sent)] }) ∧
    (s.input.write = .fail → exec (.txFrame tf k) s = .next
      { s with trace := s.trace ++ [.write h.tp bs .fail, .evt 0x03 (.txFrame tf), .release k,
          .resp .txFrame (.tx .failedTransport)] })

/-- R110: a length above 8 is dropped unwritten, released once, logged and answered FAILED_MALFORMED. That the
event's info holds all eight lanes of the TxFrame is the model's choice, log 22. -/
def Obligations.MalformedTxFrameIsDropped : Prop :=
  ∀ (s : State) (tf : TxFrame) (k : Token), s.ready → s.bstate = .bound → 8 < tf.length.toNat →
    exec (.txFrame tf k) s = .next
      { s with trace := s.trace ++ [.evt 0x04 (.txFrame tf), .release k, .resp .txFrame (.tx .failedMalformed)] }

/-- R112, R125: TX_FRAME on an Unbound block, whatever its frame: nothing written, released once, logged, FAILED_NOT_BOUND. That the
event's info holds all eight lanes of the TxFrame is the model's choice, log 22. -/
def Obligations.TxWhileUnboundIsReleased : Prop :=
  ∀ (s : State) (tf : TxFrame) (k : Token), s.ready → s.bstate = .unbound →
    exec (.txFrame tf k) s = .next
      { s with trace := s.trace ++ [.evt 0x06 (.txFrame tf), .release k, .resp .txFrame (.tx .failedNotBound)] }

/-- R81, R134: under REFUSE a legal length with an identifier above 0x7FF is refused by TX_FRAME on a Bound block. -/
def Obligations.RefuseModeRefusesLongIdentifiers : Prop :=
  ∀ (s : State) (tf : TxFrame) (k : Token), s.lock = .free → s.bstate = .bound → s.params.encodeIdMode = .refuse →
    tf.length.toNat ≤ 8 → 0x7FF < tf.id → exec (.txFrame tf k) s = .refused .encodeIdOverrange

/-- R113: every TX_FRAME that completes makes exactly one RELEASE, of its own token, after everything else it does and before its
response. -/
def Obligations.TokenIsReleasedExactlyOnce : Prop :=
  ∀ (s t : State) (tf : TxFrame) (k : Token), s.lock = .free → exec (.txFrame tf k) s = .next t →
    ∃ (d : List TraceEntry) (o : TxOutcome),
      t.trace = s.trace ++ d ++ [.release k, .resp .txFrame (.tx o)] ∧ ∀ e ∈ d, e.isRelease = false ∧ e.isResponse = false

/-- R114: TX_FRAME writes neither BUF nor PENDING nor any other element but TRACE, and so an RX_CHUNK after it leaves the window it
would have left before it. -/
def Obligations.TransmitNeverTouchesTheWindow : Prop :=
  ∀ (s t : State) (tf : TxFrame) (k : Token), exec (.txFrame tf k) s = .next t →
    (t.buf = s.buf ∧ t.bstate = s.bstate ∧ t.hnd = s.hnd ∧ t.lock = s.lock) ∧
    ∀ (chunk : List Byte) (u v : State), exec (.rxChunk chunk) t = .next u → exec (.rxChunk chunk) s = .next v → u.buf = v.buf

/-- R140: between commands, chunks of at most CAPACITY - 11 bytes never overflow the buffer: RX_CHUNK completes and records no
Overflow. -/
def Obligations.SmallChunksNeverOverflow : Prop :=
  ∀ (s : State) (chunk : List Byte), s.Inv → s.lawful → 12 ≤ s.params.capacity → chunk.length + 11 ≤ s.params.capacity →
    ∃ (t : State) (d : List TraceEntry),
      exec (.rxChunk chunk) s = .next t ∧ t.trace = s.trace ++ d ∧ ∀ e ∈ d, e.isOverflow = false

/-! ## LOCK, order and isolation -/

/-- R22, R53: a command asked for by the agent that holds LOCK is stuck, and one asked for by another agent waits with none of its
effect. -/
def Obligations.LockKeepsCommandsApart : Prop :=
  ∀ (i : Instr) (c : Command) (s : State) (a : Agent), i.command = some c → s.lock = .held a →
    (∀ chunk, i = .rxChunk chunk → chunk.length ≤ s.params.capacity) →
    (a = s.input.agent → exec i s = .fault .lockReentered) ∧ (a ≠ s.input.agent → exec i s = .next s)

/-- R53, R131, R134, R144: a host that breaks obligation (a) or (b) leaves the run stuck, whichever call of whichever command it breaks
it in. The first two clauses are R53's own cases, the first INJECT of RX_CHUNK and the WRITE of TX_FRAME. The last is about every call,
BIND's five, the tear-downs' two and RELEASE among them: where a command completes under a lawful host with some calls, a host that
breaks its obligation in any one of these leaves it stuck, and one that keeps it in all of them changes nothing but what is left of the
host's own count (log 5). -/
def Obligations.ReentrantCollaboratorIsStuck : Prop :=
  (∀ (s : State) (m : Memory) (h : Handles) (k : BreachKind), s.lock = .free → s.bstate = .bound → s.buf = some m →
    s.hnd = some h → s.input.breach = some ⟨0, k⟩ →
    (∀ chunk : List Byte, chunk.length ≤ s.params.capacity →
      (scan s.params.decodeOrder (if s.params.capacity < m.pending + chunk.length then chunk else m.window ++ chunk)).frames ≠ [] →
      exec (.rxChunk chunk) s = .fault k.stuck) ∧
    (∀ (tf : TxFrame) (token : Token) (bs : List Byte), tf.length.toNat ≤ 8 → encodeFrame s.params.encodeIdMode tf = some bs →
      exec (.txFrame tf token) s = .fault k.stuck)) ∧
  (∀ (i : Instr) (c : Command) (s t : State) (d : List TraceEntry) (n : Nat) (k : BreachKind), i.command = some c → s.lock = .free →
    s.lawful → exec i s = .next t → t.trace = s.trace ++ d →
    (n < d.countP TraceEntry.isCall → exec i (s.breaks n k) = .fault k.stuck) ∧
    (d.countP TraceEntry.isCall ≤ n → exec i (s.breaks n k) = .next (t.breaks (n - d.countP TraceEntry.isCall) k)))

/-- R50, R22: LOCK is free again after every instruction that began with it free. -/
def Obligations.LockIsReleased : Prop :=
  ∀ (i : Instr) (s t : State), s.lock = .free → exec i s = .next t → t.lock = .free

/-- R122: every command that completes makes exactly one response, its own, as the last of its entries. -/
def Obligations.EveryCommandRespondsOnce : Prop :=
  ∀ (i : Instr) (c : Command) (s t : State), i.command = some c → s.lock = .free → exec i s = .next t →
    ∃ (d : List TraceEntry) (r : Response), t.trace = s.trace ++ d ++ [.resp c r] ∧ ∀ e ∈ d, e.isResponse = false

/-- R115, R123: on an Unbound block no command but BIND calls a collaborator; it changes neither BSTATE, BUF nor HND. -/
def Obligations.UnboundCommandsCallNoCollaborator : Prop :=
  ∀ (i : Instr) (c : Command) (s t : State), i.command = some c → c ≠ .bind → s.bstate = .unbound → exec i s = .next t →
    (t.bstate = .unbound ∧ t.buf = s.buf ∧ t.hnd = s.hnd) ∧
    ∃ d : List TraceEntry, t.trace = s.trace ++ d ∧ ∀ e ∈ d, e.isCollaboratorCall = false

/-- R31: TRACE only grows, at its end. -/
def Obligations.TraceOnlyGrows : Prop :=
  ∀ (i : Instr) (s t : State), exec i s = .next t → s.trace <+: t.trace

/-- R137: neither reset nor an instruction nor a step changes a build parameter. -/
def Obligations.ParametersAreFixed : Prop :=
  (∀ p : Params, (State.resetWith p).params = p) ∧
  (∀ (i : Instr) (s t : State), exec i s = .next t → t.params = s.params) ∧
  (∀ s t : State, step s = .next t → t.params = s.params)

/-! ## Steps and reset -/

/-- What a step does around exec (log 10): it runs the instruction it fetches, a command in the state it leaves in the inbox and with
its own inputs; an idle block and a waiting agent change nothing. -/
def Obligations.StepRunsTheFetchedInstruction : Prop :=
  ∀ s : State,
    (∀ r rest, s.inner = none → s.inbox = r :: rest →
      s.lock = .free ∨ s.lock = .held r.input.agent ∨ asksLock (Sys2Proof.decode (.command r.op r.args)) s = false →
      step s = exec (Sys2Proof.decode (.command r.op r.args)) { s with inbox := rest, input := r.input }) ∧
    (∀ r rest a, s.inner = none → s.inbox = r :: rest → s.lock = .held a → a ≠ r.input.agent →
      asksLock (Sys2Proof.decode (.command r.op r.args)) s = true → step s = .next s) ∧
    (s.inner = none → s.inbox = [] → step s = .next s) ∧
    (∀ c, s.inner = some (.func c) → step s = exec (Sys2Proof.decode (.func c)) { s with inner := none }) ∧
    (∀ m, s.inner = some .scanPass → s.buf = some m →
      step s = exec (Sys2Proof.decode (.window m.window)) { s with inner := none }) ∧
    (s.inner = some .scanPass → s.buf = none → step s = .fault .noReceiveState)

/-- Log 10, log 12: a table word that is placed is what the next step runs: a command code, or the row of a header with its payload. -/
def Obligations.PlacedWordIsRun : Prop :=
  ∀ (s : State) (w : Nat),
    (w < 16 → step (s.withFetchWord 8 w) =
      exec (Sys2Proof.decode (.command (BitVec.ofNat 4 w) CmdArgs.zero)) { s with inner := none, lock := .free }) ∧
    ∃ s' : State, step (s.withFetchWord 32 w) = exec (Sys2Proof.decode (.window (bytesOfWord 4 w))) s' ∧
      s'.window = some (windowOfWord 32 w) ∧ s'.bstate = .bound ∧ s'.trace = s.trace ∧ s'.params = s.params

/-- R135: the state after power-on reset, for every build; the block then waits for commands. R10: the default parameters. -/
def Obligations.ResetLeavesAnUnboundBlock : Prop :=
  ∀ p : Params,
    (State.resetWith p).bstate = .unbound ∧ (State.resetWith p).lock = .free ∧ (State.resetWith p).buf = none ∧
    (State.resetWith p).pending = none ∧ (State.resetWith p).hnd = none ∧ (State.resetWith p).trace = [] ∧
    (State.resetWith p).params = p ∧ step (State.resetWith p) = .next (State.resetWith p) ∧
    State.reset = State.resetWith ⟨256, .incompleteFirst, .unmasked⟩

/-- R37, R38: the invariant holds after reset, for every build. -/
def Obligations.ResetMeetsTheInvariant : Prop := ∀ p : Params, (State.resetWith p).Inv

/-- R37 (a): every instruction keeps that the block is Bound if and only if BUF, PENDING and HND exist. -/
def Obligations.EveryInstructionKeepsTheLifecycle : Prop :=
  ∀ (i : Instr) (s t : State), s.lifecycle → exec i s = .next t → t.lifecycle

/-- R24, R26, R37 (b): every instruction keeps BUF in canonical form and PENDING at most CAPACITY. -/
def Obligations.EveryInstructionKeepsTheWindowInBounds : Prop :=
  ∀ (i : Instr) (s t : State), s.bounded → exec i s = .next t → t.bounded

/-- R32, R106: every instruction keeps that each frame injected has an 11-bit identifier, a length of at most 8 and that many bytes. -/
def Obligations.EveryInjectedFrameIsLegal : Prop :=
  ∀ (i : Instr) (s t : State), s.framesLegal → exec i s = .next t → t.framesLegal

/-- R37, R38: every step keeps the block's invariants, for every order of commands and every answer of the host. -/
def Obligations.EveryStepKeepsTheInvariant : Prop :=
  ∀ s t : State, s.Inv → step s = .next t → t.Inv

/-- R38: between commands PENDING is at most 11. -/
def Obligations.AtMostElevenBytesWait : Prop :=
  ∀ (s : State) (n : Nat), s.Inv → s.pending = some n → n ≤ 11

/-- R62, R120, R134: under the invariant, a command that the spec does not refuse, from a host that keeps its obligations, completes
in one step, and the next command's turn comes. -/
def Obligations.LawfulCommandsComplete : Prop :=
  ∀ (s : State) (r : Request) (rest : List Request), s.Inv → s.inbox = r :: rest → r.input.breach = none →
    0x1 ≤ r.op → r.op ≤ 0x6 → (r.op = 0x3 → r.args.chunk.length ≤ s.params.capacity) →
    (r.op = 0x4 → s.bstate = .bound → r.args.tf.length.toNat ≤ 8 → s.params.encodeIdMode = .refuse → r.args.tf.id ≤ 0x7FF) →
    ∃ t : State, step s = .next t ∧ t.inbox = rest

end
end

