-- ==== Sys2Proof/Laws/Codec.lean ====
section
/-! SUPPORT. The ID field's bytes (R46, R66) and what each verdict of DECODE says of the window (R82). -/

namespace Sys2Proof

theorem idField_eq_append (hi lo : Byte) : idField hi lo = (hi ++ lo : BitVec (8 + 8)) := by
  apply BitVec.eq_of_getLsbD_eq
  intro i hi'
  simp only [idField, BitVec.getLsbD_or, BitVec.getLsbD_shiftLeft, BitVec.getLsbD_setWidth, BitVec.getLsbD_append]
  by_cases h : i < 8
  · simp [h, hi']
  · have h2 : i - 8 < 16 := by omega
    have h3 : lo.getLsbD i = false := BitVec.getLsbD_of_ge lo i (by omega)
    simp [h, hi', h2, h3]

theorem idHigh_idField (hi lo : Byte) : idHigh (idField hi lo) = hi := by
  rw [idField_eq_append]
  apply BitVec.eq_of_getLsbD_eq
  intro i hi'
  simp only [idHigh, BitVec.getLsbD_extractLsb', BitVec.getLsbD_append]
  have : ¬ 8 + i < 8 := by omega
  simp [hi', this]

theorem idLow_idField (hi lo : Byte) : idLow (idField hi lo) = lo := by
  rw [idField_eq_append]
  apply BitVec.eq_of_getLsbD_eq
  intro i hi'
  simp only [idLow, BitVec.getLsbD_extractLsb', BitVec.getLsbD_append]
  simp [hi']

theorem idField_high_low (id : Id16) : idField (idHigh id) (idLow id) = id := by
  rw [idField_eq_append]
  apply BitVec.eq_of_getLsbD_eq
  intro i hi'
  simp only [idHigh, idLow, BitVec.getLsbD_append, BitVec.getLsbD_extractLsb']
  by_cases h : i < 8
  · simp [h]
  · have h1 : i - 8 < 8 := by omega
    have h2 : 8 + (i - 8) = i := by omega
    simp [h, h1, h2]

namespace Machine

/-- The mask keeps an identifier of at most 0x7FF. -/
theorem and_idmask_of_le {id : Id16} (h : id ≤ IDMASK) : id &&& IDMASK = id := by
  apply BitVec.eq_of_toNat_eq
  have h1 : id.toNat ≤ 2047 := h
  rw [BitVec.toNat_and, show IDMASK.toNat = 2 ^ 11 - 1 from rfl, Nat.and_two_pow_sub_one_eq_mod]
  omega

/-- ENCODE writes an identifier of at most 0x7FF unchanged in every mode (R81). -/
theorem encodeId_of_le (mode : EncodeIdMode) {id : Id16} (h : id ≤ IDMASK) : encodeId mode id = some id := by
  cases mode with
  | unmasked => rfl
  | mask11 => simp only [encodeId, and_idmask_of_le h]
  | refuse => simp only [encodeId, if_neg (BitVec.not_lt.mpr h)]

/-- REFUSE refuses every longer identifier (R81). -/
theorem encodeId_refuse {id : Id16} (h : IDMASK < id) : encodeId .refuse id = none := by
  simp only [encodeId, if_pos h]

theorem mkFrame_wf {id : Id16} {len : Nat} {p : List Byte} (hl : len ≤ MAXLEN) (hp : p.length = len) :
    (mkFrame id len p).wf := by
  have h : len ≤ 8 := hl
  have h2 : (BitVec.ofNat 4 len).toNat = len := by simp; omega
  exact ⟨by simpa [mkFrame, h2] using hl, by simp [mkFrame, h2, hp]⟩

/-- DECODE's two orders share every test once the Sync byte and three more are at hand. -/
theorem decodeFront_sync (order : DecodeOrder) (b1 b2 b3 : Byte) (rest : List Byte) :
    decodeFront order (SYNC :: b1 :: b2 :: b3 :: rest) = decodeBody b1 b2 b3 rest := by
  cases order <;> simp [decodeFront]

/-- A byte that is not SYNC, at the front of a whole header. -/
theorem decodeFront_nosync (order : DecodeOrder) {b0 : Byte} (h : b0 ≠ SYNC) (b1 b2 b3 : Byte) (rest : List Byte) :
    decodeFront order (b0 :: b1 :: b2 :: b3 :: rest) = .resync := by
  cases order <;> simp [decodeFront, h]

/-- FRAME: the window starts with a header of a legal length and its whole payload. -/
theorem decodeFront_eq_frame {order : DecodeOrder} {w : List Byte} {f : Frame} {k : Nat}
    (h : decodeFront order w = .frame f k) :
    ∃ b1 b2 b3 rest, w = SYNC :: b1 :: b2 :: b3 :: rest ∧ b3.toNat ≤ MAXLEN ∧ b3.toNat ≤ rest.length ∧
      f = mkFrame (idField b1 b2) b3.toNat (rest.take b3.toNat) ∧ k = HDR + b3.toNat := by
  have body : ∀ b1 b2 b3 rest, decodeBody b1 b2 b3 rest = .frame f k →
      b3.toNat ≤ MAXLEN ∧ b3.toNat ≤ rest.length ∧ f = mkFrame (idField b1 b2) b3.toNat (rest.take b3.toNat) ∧
        k = HDR + b3.toNat := by
    intro b1 b2 b3 rest hb
    unfold decodeBody at hb
    split at hb
    · cases hb
    · split at hb
      · cases hb
      · rename_i h1 h2
        cases hb
        exact ⟨by omega, by omega, rfl, rfl⟩
  cases order with
  | incompleteFirst =>
    simp only [decodeFront] at h
    split at h
    · split at h
      · cases h
      · rename_i h0
        exact ⟨_, _, _, _, by rw [not_not.mp h0], body _ _ _ _ h⟩
    · cases h
  | resyncFirst =>
    simp only [decodeFront] at h
    split at h
    · cases h
    · split at h
      · cases h
      · rename_i h0
        split at h
        · exact ⟨_, _, _, _, by rw [not_not.mp h0], body _ _ _ _ h⟩
        · cases h

/-- The empty window is INCOMPLETE under both orders. -/
theorem decodeFront_nil (order : DecodeOrder) : decodeFront order [] = .incomplete := by cases order <;> rfl

/-- A yielded frame is a Frame, and the bytes consumed are its header and payload, all within the window. -/
theorem decodeFront_frame_bounds {order : DecodeOrder} {w : List Byte} {f : Frame} {k : Nat}
    (h : decodeFront order w = .frame f k) : f.wf ∧ k = HDR + f.length.toNat ∧ k ≤ w.length := by
  obtain ⟨b1, b2, b3, rest, rfl, h8, hr, rfl, rfl⟩ := decodeFront_eq_frame h
  have h9 : b3.toNat ≤ 8 := h8
  have h2 : (BitVec.ofNat 4 b3.toNat).toNat = b3.toNat := by simp; omega
  exact ⟨mkFrame_wf h8 (by simp [hr]), by simp only [mkFrame, h2], by simp [HDR]; omega⟩

end Machine

end Sys2Proof
end

