-- ==== Sys2Proof/Laws/Memory.lean ====
section
/-! SUPPORT. BUF: the window of each operation's result (R58, R59), the canonical form every operation keeps, and one byte read. -/

namespace Sys2Proof.Machine

theorem cellsFrom_map_snd (a : Nat) (w : List Byte) : (cellsFrom a w).map Prod.snd = w := by
  induction w generalizing a with
  | nil => rfl
  | cons b bs ih => simp [cellsFrom, ih]

theorem cellsFrom_map_fst (a : Nat) (w : List Byte) : (cellsFrom a w).map Prod.fst = List.range' a w.length := by
  induction w generalizing a with
  | nil => rfl
  | cons b bs ih => simp [cellsFrom, ih, List.range'_succ]

theorem cellsFrom_length (a : Nat) (w : List Byte) : (cellsFrom a w).length = w.length := by
  simpa using congrArg List.length (cellsFrom_map_snd a w)

theorem cellsFrom_lookup (a i : Nat) (w : List Byte) : (cellsFrom a w).lookup (a + i) = w[i]? := by
  induction w generalizing a i with
  | nil => rfl
  | cons b bs ih =>
    cases i with
    | zero => simp [cellsFrom]
    | succ n =>
      have h : (a + (n + 1) == a) = false := by simp
      have := ih (a + 1) n
      rw [show a + 1 + n = a + (n + 1) by omega] at this
      simp only [cellsFrom, List.lookup_cons, h, this, List.getElem?_cons_succ]

@[simp] theorem window_ofWindow (w : List Byte) : (Memory.ofWindow w).window = w := cellsFrom_map_snd 0 w

@[simp] theorem pending_ofWindow (w : List Byte) : (Memory.ofWindow w).pending = w.length := cellsFrom_length 0 w

theorem pending_eq (m : Memory) : m.pending = m.window.length := by simp [Memory.pending, Memory.window]

theorem wf_ofWindow (w : List Byte) : (Memory.ofWindow w).wf := by
  simp [Memory.wf, Memory.ofWindow, cellsFrom_map_fst, cellsFrom_length, List.range_eq_range']

/-- A canonical buffer is the buffer of its window: equal windows are equal data. -/
theorem eq_ofWindow_of_wf {m : Memory} (h : m.wf) : m = Memory.ofWindow m.window := by
  obtain ⟨cs⟩ := m
  simp only [Memory.wf, List.range_eq_range'] at h
  simp only [Memory.ofWindow, Memory.window, Memory.mk.injEq]
  generalize 0 = a at h
  induction cs generalizing a with
  | nil => rfl
  | cons c cs ih =>
    simp only [List.map_cons, List.length_cons, List.range'_succ, List.cons.injEq] at h
    simp only [List.map_cons, cellsFrom, List.cons.injEq]
    exact ⟨Prod.ext h.1 rfl, ih (a + 1) h.2⟩

/-- `BUF[i]` in canonical form: byte i of the window, and no value at or past PENDING (R26). -/
theorem read_of_wf {m : Memory} (h : m.wf) (i : Nat) : m.read i = m.window[i]? := by
  have := cellsFrom_lookup 0 i m.window
  rw [Nat.zero_add] at this
  rw [← this, Memory.read]
  conv_lhs => rw [eq_ofWindow_of_wf h]
  rfl

@[simp] theorem window_empty : Memory.empty.window = [] := rfl

@[simp] theorem window_append (m : Memory) (c : List Byte) : (m.append c).window = m.window ++ c := by
  simp [Memory.append, Memory.memWrite, pending_eq]

@[simp] theorem window_dropFront (m : Memory) (k : Nat) : (m.dropFront k).window = m.window.drop k := by
  simp [Memory.dropFront, Memory.memRead, pending_eq, List.take_of_length_le]

theorem wf_empty : Memory.empty.wf := wf_ofWindow []
theorem wf_memWrite (m : Memory) (a : Nat) (v : List Byte) : (m.memWrite a v).wf := wf_ofWindow _
theorem wf_append (m : Memory) (c : List Byte) : (m.append c).wf := wf_ofWindow _
theorem wf_dropFront (m : Memory) (k : Nat) : (m.dropFront k).wf := wf_ofWindow _

end Sys2Proof.Machine
end

