-- ==== Sys2Proof/Laws/State.lean ====
section
/-! SUPPORT. The fields of a state after `emit` and `raise`: every field but TRACE is what it was. -/

namespace Sys2Proof.Machine

@[simp] theorem emit_params (s : State) (e : TraceEntry) : (s.emit e).params = s.params := rfl
@[simp] theorem emit_bstate (s : State) (e : TraceEntry) : (s.emit e).bstate = s.bstate := rfl
@[simp] theorem emit_lock (s : State) (e : TraceEntry) : (s.emit e).lock = s.lock := rfl
@[simp] theorem emit_buf (s : State) (e : TraceEntry) : (s.emit e).buf = s.buf := rfl
@[simp] theorem emit_hnd (s : State) (e : TraceEntry) : (s.emit e).hnd = s.hnd := rfl
@[simp] theorem emit_trace (s : State) (e : TraceEntry) : (s.emit e).trace = s.trace ++ [e] := rfl
@[simp] theorem emit_ret (s : State) (e : TraceEntry) : (s.emit e).ret = s.ret := rfl
@[simp] theorem emit_input (s : State) (e : TraceEntry) : (s.emit e).input = s.input := rfl
@[simp] theorem emit_inbox (s : State) (e : TraceEntry) : (s.emit e).inbox = s.inbox := rfl
@[simp] theorem emit_inner (s : State) (e : TraceEntry) : (s.emit e).inner = s.inner := rfl

@[simp] theorem raise_params (s : State) (c : Condition) : (s.raise c).params = s.params := rfl
@[simp] theorem raise_bstate (s : State) (c : Condition) : (s.raise c).bstate = s.bstate := rfl
@[simp] theorem raise_lock (s : State) (c : Condition) : (s.raise c).lock = s.lock := rfl
@[simp] theorem raise_buf (s : State) (c : Condition) : (s.raise c).buf = s.buf := rfl
@[simp] theorem raise_hnd (s : State) (c : Condition) : (s.raise c).hnd = s.hnd := rfl
@[simp] theorem raise_trace (s : State) (c : Condition) : (s.raise c).trace = s.trace ++ [.evt c.code c.info] := rfl
@[simp] theorem raise_ret (s : State) (c : Condition) : (s.raise c).ret = s.ret := rfl
@[simp] theorem raise_input (s : State) (c : Condition) : (s.raise c).input = s.input := rfl
@[simp] theorem raise_inbox (s : State) (c : Condition) : (s.raise c).inbox = s.inbox := rfl
@[simp] theorem raise_inner (s : State) (c : Condition) : (s.raise c).inner = s.inner := rfl

end Sys2Proof.Machine
end

