-- ==== Sys2Proof/Laws/Assembler.lean ====
section
/-! SUPPORT. The scan and FEED: what a pass can do, what the overflow policy leaves, and FEED's effect on each field. -/

namespace Sys2Proof.Machine

theorem scanLoop_zero (order : DecodeOrder) (w : List Byte) : scanLoop order 0 w = ⟨[], w⟩ := rfl

theorem scanLoop_resync {order : DecodeOrder} {n : Nat} {w : List Byte} (h : decodeAt order w 0 = .resync) :
    scanLoop order (n + 1) w = scanLoop order n (w.drop 1) := by simp [scanLoop, h]

theorem scanLoop_incomplete {order : DecodeOrder} {n : Nat} {w : List Byte} (h : decodeAt order w 0 = .incomplete) :
    scanLoop order (n + 1) w = ⟨[], w⟩ := by simp [scanLoop, h]

theorem scanLoop_frame {order : DecodeOrder} {n k : Nat} {w : List Byte} {f : Frame} (h : decodeAt order w 0 = .frame f k) :
    scanLoop order (n + 1) w = ⟨f :: (scanLoop order n (w.drop k)).frames, (scanLoop order n (w.drop k)).rest⟩ := by
  simp [scanLoop, h]

/-- The window after the overflow policy and the append: the chunk alone, or the old window and the chunk (R87, R88). -/
theorem window_accept (capacity : Nat) (m : Memory) (chunk : List Byte) :
    (accept capacity m chunk).window = if capacity < m.pending + chunk.length then chunk else m.window ++ chunk := by
  unfold accept overflows
  split <;> simp_all

/-- After the overflow policy and the append of an admissible chunk, PENDING is at most CAPACITY (R88). -/
theorem pending_accept_le {capacity : Nat} {m : Memory} {chunk : List Byte} (h : chunk.length ≤ capacity) :
    (accept capacity m chunk).pending ≤ capacity := by
  rw [pending_eq, window_accept]
  split
  · exact h
  · rename_i h2
    rw [List.length_append, ← pending_eq]
    omega

/-- FEED's frames. -/
theorem feed_frames (chunk : List Byte) (m : Memory) (s : State) :
    (feed chunk m s).1 = (scan s.params.decodeOrder (accept s.params.capacity m chunk).window).frames := rfl

/-- FEED's state: the buffer it retains and, where the overflow policy applied, one Overflow event; nothing else. -/
theorem feed_state (chunk : List Byte) (m : Memory) (s : State) :
    (feed chunk m s).2 =
      { s with
        buf := some (Memory.ofWindow (scan s.params.decodeOrder (accept s.params.capacity m chunk).window).rest)
        trace := if s.params.capacity < m.pending + chunk.length
          then s.trace ++ [.evt 0x01 (.loss m.pending chunk.length)] else s.trace } := by
  unfold feed overflows
  by_cases h : s.params.capacity < m.pending + chunk.length <;> simp [h, State.raise, State.emit, Condition.code, Condition.info]

end Sys2Proof.Machine
end

