-- ==== Sys2Proof/Laws/Ops.lean ====
section
/-! SUPPORT. What each shared operation can do, said once: a call of a collaborator, the sequence of two operations, LOCK, the
tear-down of a binding. -/

namespace Sys2Proof.Machine

@[simp] theorem andThen_next (s : State) (k : State → Out) : andThen (.next s) k = k s := rfl
@[simp] theorem andThen_fault (f : Fault) (k : State → Out) : andThen (.fault f) k = .fault f := rfl
@[simp] theorem andThen_refused (r : Refusal) (k : State → Out) : andThen (.refused r) k = .refused r := rfl

/-- A sequence of two operations answers a next state only through one of the first. -/
theorem andThen_eq_next {o : Out} {k : State → Out} {t : State} :
    andThen o k = .next t ↔ ∃ s, o = .next s ∧ k s = .next t := by
  cases o <;> simp [andThen]

/-- A call under a host that keeps its obligations leaves its entry in TRACE and nothing else. -/
theorem callOut_lawful {e : TraceEntry} {s : State} (h : s.input.breach = none) : callOut e s = .next (s.emit e) := by
  simp [callOut, h]

/-- What a call can answer with: the state with its entry, a breach counted down at most. -/
theorem callOut_eq_next {e : TraceEntry} {s t : State} (h : callOut e s = .next t) :
    ∃ b, t = { s with input := { s.input with breach := b }, trace := s.trace ++ [e] } := by
  unfold callOut at h
  split at h
  · rename_i hb
    cases h
    exact ⟨none, by cases s; rename_i i _ _; cases i; simp_all [State.emit]⟩
  · cases h
  · cases h
  · cases h
    exact ⟨_, rfl⟩

/-- What a command under LOCK can answer with: its body's next state with LOCK free, or, where another agent holds LOCK, the state
as it was. -/
theorem withLock_eq_next {body : State → Out} {s t : State} (h : withLock body s = .next t) :
    (s.lock = .free ∧ ∃ u, body { s with lock := .held s.input.agent } = .next u ∧ t = { u with lock := .free }) ∨
    (∃ a, s.lock = .held a ∧ a ≠ s.input.agent ∧ t = s) := by
  unfold withLock at h
  split at h
  · rename_i hl
    obtain ⟨u, hu, ht⟩ := andThen_eq_next.mp h
    exact .inl ⟨hl, u, hu, by cases ht; rfl⟩
  · rename_i a hl
    split at h
    · cases h
    · rename_i ha
      cases h
      exact .inr ⟨a, hl, ha, rfl⟩

/-- A command under a free LOCK runs its body as LOCK's holder, then releases. -/
theorem withLock_free {body : State → Out} {s : State} (h : s.lock = .free) :
    withLock body s = andThen (body { s with lock := .held s.input.agent }) release := by
  simp [withLock, h]

/-- What a tear-down can answer with: an Unbound block and the response alone, or a Bound one torn down with its two calls. -/
theorem tearDown_eq_next {op : Command} {s t : State} (h : tearDown op s = .next t) :
    (s.bstate = .unbound ∧ t = s.emit (.resp op .done)) ∨
    (s.bstate = .bound ∧ ∃ hd b, s.hnd = some hd ∧
      t = { s with bstate := .unbound, buf := none, hnd := none, input := { s.input with breach := b },
                   trace := s.trace ++ [.restore hd.origtx, .detachRx, .resp op .done] }) := by
  unfold tearDown at h
  split at h
  · rename_i hb
    cases h
    exact .inl ⟨hb, rfl⟩
  · rename_i hb
    split at h
    · cases h
    · rename_i hd hh
      obtain ⟨u, hu, h⟩ := andThen_eq_next.mp h
      obtain ⟨v, hv, h⟩ := andThen_eq_next.mp h
      obtain ⟨b, rfl⟩ := callOut_eq_next hu
      obtain ⟨c, rfl⟩ := callOut_eq_next hv
      cases h
      exact .inr ⟨hb, hd, c, hh, by simp [State.emit]⟩

end Sys2Proof.Machine
end

