-- ==== Sys2Proof/Laws/Breach.lean ====
section
/-! SUPPORT. The state under a host that breaks an obligation at a later call (R131, log 5): one lemma for each field, and what one call
does then. -/

namespace Sys2Proof.Machine

@[simp] theorem breaks_params (s : State) (n : Nat) (k : BreachKind) : (s.breaks n k).params = s.params := rfl
@[simp] theorem breaks_bstate (s : State) (n : Nat) (k : BreachKind) : (s.breaks n k).bstate = s.bstate := rfl
@[simp] theorem breaks_lock (s : State) (n : Nat) (k : BreachKind) : (s.breaks n k).lock = s.lock := rfl
@[simp] theorem breaks_buf (s : State) (n : Nat) (k : BreachKind) : (s.breaks n k).buf = s.buf := rfl
@[simp] theorem breaks_hnd (s : State) (n : Nat) (k : BreachKind) : (s.breaks n k).hnd = s.hnd := rfl
@[simp] theorem breaks_trace (s : State) (n : Nat) (k : BreachKind) : (s.breaks n k).trace = s.trace := rfl
@[simp] theorem breaks_ret (s : State) (n : Nat) (k : BreachKind) : (s.breaks n k).ret = s.ret := rfl
@[simp] theorem breaks_inbox (s : State) (n : Nat) (k : BreachKind) : (s.breaks n k).inbox = s.inbox := rfl
@[simp] theorem breaks_inner (s : State) (n : Nat) (k : BreachKind) : (s.breaks n k).inner = s.inner := rfl
@[simp] theorem breaks_input (s : State) (n : Nat) (k : BreachKind) :
    (s.breaks n k).input = { s.input with breach := some ⟨n, k⟩ } := rfl

/-- The call in which the host breaks its obligation leaves the run stuck. -/
theorem callOut_breaks_zero (e : TraceEntry) (s : State) (k : BreachKind) : callOut e (s.breaks 0 k) = .fault k.stuck := by
  cases k <;> rfl

/-- A call before that one leaves its entry, and one call fewer to go. -/
theorem callOut_breaks_succ (e : TraceEntry) (s : State) (n : Nat) (k : BreachKind) :
    callOut e (s.breaks (n + 1) k) = .next ((s.emit e).breaks n k) := rfl

end Sys2Proof.Machine
end

