-- ==== Sys2Proof/Laws/Controller.lean ====
section
/-! SUPPORT. What the body of each command can answer with, said once. -/

namespace Sys2Proof.Machine

/-- RELEASE and the response, which end every TX_FRAME. -/
theorem releaseAndRespond_eq_next {k : Token} {o : TxOutcome} {s t : State} (h : releaseAndRespond k o s = .next t) :
    ∃ b, t = { s with input := { s.input with breach := b },
                      trace := s.trace ++ [.release k, .resp .txFrame (.tx o)] } := by
  obtain ⟨u, hu, h⟩ := andThen_eq_next.mp h
  obtain ⟨b, rfl⟩ := callOut_eq_next hu
  cases h
  exact ⟨b, by simp [State.emit]⟩

/-- The injections change nothing but TRACE and the count of a breach: the frames' entries are appended. -/
theorem injectAll_eq_next {ep : Handle} {k : Nat} {fs : List Frame} {s t : State} (h : injectAll ep k fs s = .next t) :
    ∃ b d, t = { s with input := { s.input with breach := b }, trace := s.trace ++ d } ∧
      ∀ e ∈ d, (∃ f r, f ∈ fs ∧ e = .inject ep f r) ∨ (∃ f, f ∈ fs ∧ e = .evt 0x02 (.frame f)) := by
  induction fs generalizing k s with
  | nil =>
    cases h
    exact ⟨t.input.breach, [], by simp, by simp⟩
  | cons f fs ih =>
    simp only [injectAll] at h
    obtain ⟨u, hu, h⟩ := andThen_eq_next.mp h
    obtain ⟨b, rfl⟩ := callOut_eq_next hu
    split at h
    · obtain ⟨c, d, rfl, hd⟩ := ih h
      refine ⟨c, _ :: d, by simp; rfl, ?_⟩
      intro e he
      rcases List.mem_cons.mp he with rfl | he
      · exact .inl ⟨f, _, by simp, rfl⟩
      · rcases hd e he with ⟨g, r, hg, rfl⟩ | ⟨g, hg, rfl⟩
        · exact .inl ⟨g, r, by simp [hg], rfl⟩
        · exact .inr ⟨g, by simp [hg], rfl⟩
    · obtain ⟨c, d, rfl, hd⟩ := ih h
      refine ⟨c, _ :: .evt 0x02 (.frame f) :: d, by simp [State.raise, State.emit, Condition.code, Condition.info]; rfl, ?_⟩
      intro e he
      rcases List.mem_cons.mp he with rfl | he
      · exact .inl ⟨f, _, by simp, rfl⟩
      rcases List.mem_cons.mp he with rfl | he
      · exact .inr ⟨f, by simp, rfl⟩
      · rcases hd e he with ⟨g, r, hg, rfl⟩ | ⟨g, hg, rfl⟩
        · exact .inl ⟨g, r, by simp [hg], rfl⟩
        · exact .inr ⟨g, by simp [hg], rfl⟩

/-- BIND's body: one of its four results, with the calls that lead to it. -/
theorem bindBody_eq_next {n : EndpointName} {tr : TransportId} {c : LinkCfg} {s t : State} (h : bindBody n tr c s = .next t) :
    (s.bstate = .bound ∧ t = s.emit (.resp .bind (.bind .alreadyBound))) ∨
    (s.bstate = .unbound ∧ ∃ b d, (∀ e ∈ d, (∃ r, e = .resolve n r) ∨ (∃ r, e = .openTransport tr r)) ∧
      ∃ r, r ≠ .ok ∧ t = { s with input := { s.input with breach := b }, trace := s.trace ++ d ++ [.resp .bind (.bind r)] }) ∨
    (s.bstate = .unbound ∧ ∃ ep tp b, s.input.resolve = .handle ep ∧ s.input.opened = .handle tp ∧
      t = { s with bstate := .bound, buf := some Memory.empty, hnd := some ⟨tp, ep, s.input.origtx⟩,
                   input := { s.input with breach := b },
                   trace := s.trace ++ [.resolve n (.handle ep), .openTransport tr (.handle tp), .config c, .attachRx,
                     .install s.input.origtx, .resp .bind (.bind .ok)] }) := by
  unfold bindBody at h
  split at h
  · rename_i hb
    cases h
    exact .inl ⟨hb, rfl⟩
  · rename_i hb
    right
    obtain ⟨u, hu, h⟩ := andThen_eq_next.mp h
    obtain ⟨b1, rfl⟩ := callOut_eq_next hu
    simp only at h
    split at h
    · rename_i hr
      cases h
      exact .inl ⟨hb, b1, [.resolve n s.input.resolve], by simp, .endpointNotFound, by simp, by simp [State.emit]⟩
    · rename_i ep hr
      obtain ⟨u, hu, h⟩ := andThen_eq_next.mp h
      obtain ⟨b2, rfl⟩ := callOut_eq_next hu
      simp only at h
      split at h
      · cases h
        exact .inl ⟨hb, b2, [.resolve n s.input.resolve, .openTransport tr s.input.opened], by simp, .transportUnavailable,
          by simp, by simp [State.emit]⟩
      · rename_i tp ho
        obtain ⟨u, hu, h⟩ := andThen_eq_next.mp h
        obtain ⟨b3, rfl⟩ := callOut_eq_next hu
        obtain ⟨u, hu, h⟩ := andThen_eq_next.mp h
        obtain ⟨b4, rfl⟩ := callOut_eq_next hu
        obtain ⟨u, hu, h⟩ := andThen_eq_next.mp h
        obtain ⟨b5, rfl⟩ := callOut_eq_next hu
        cases h
        exact .inr ⟨hb, ep, tp, b5, hr, ho, by simp [State.emit, hr, ho]⟩

/-- RX_CHUNK's body: the Unbound path, or FEED and then the injections. -/
theorem rxBody_eq_next {chunk : List Byte} {s t : State} (h : rxBody chunk s = .next t) :
    (s.bstate = .unbound ∧ t = { s with trace := s.trace ++ [.evt 0x05 (.chunkLen chunk.length), .resp .rxChunk .done] }) ∨
    (s.bstate = .bound ∧ ∃ m hd u, s.buf = some m ∧ s.hnd = some hd ∧
      injectAll hd.ep 0 (feed chunk m s).1 (feed chunk m s).2 = .next u ∧ t = u.emit (.resp .rxChunk .done)) := by
  unfold rxBody at h
  split at h
  · rename_i hb
    cases h
    exact .inl ⟨hb, by simp [State.raise, State.emit, Condition.code, Condition.info]⟩
  · rename_i hb
    right
    split at h
    · cases h
    · cases h
    · rename_i m hd hm hh
      obtain ⟨u, hu, h⟩ := andThen_eq_next.mp h
      cases h
      exact ⟨hb, m, hd, u, hm, hh, hu, rfl⟩

/-- TX_FRAME's body: the entries before the release (an event, a WRITE, or a failed WRITE and its event), then the release and the
response; nothing else changes. -/
theorem txBody_eq_next {tf : TxFrame} {k : Token} {s t : State} (h : txBody tf k s = .next t) :
    ∃ b d o, t = { s with input := { s.input with breach := b },
                          trace := s.trace ++ d ++ [.release k, .resp .txFrame (.tx o)] } ∧
      ((s.bstate = .unbound ∧ d = [.evt 0x06 (.txFrame tf)] ∧ o = .failedNotBound) ∨
       (s.bstate = .bound ∧ d = [.evt 0x04 (.txFrame tf)] ∧ o = .failedMalformed) ∨
       (s.bstate = .bound ∧ ∃ tp bs, (d = [.write tp bs .ok] ∧ o = .sent) ∨
         (d = [.write tp bs .fail, .evt 0x03 (.txFrame tf)] ∧ o = .failedTransport))) := by
  unfold txBody at h
  split at h
  · rename_i hb
    obtain ⟨b, rfl⟩ := releaseAndRespond_eq_next h
    exact ⟨b, _, _, by simp [Condition.code, Condition.info, State.raise, State.emit], .inl ⟨hb, rfl, rfl⟩⟩
  · rename_i hb
    split at h
    · obtain ⟨b, rfl⟩ := releaseAndRespond_eq_next h
      exact ⟨b, _, _, by simp [Condition.code, Condition.info, State.raise, State.emit],
        .inr (.inl ⟨hb, rfl, rfl⟩)⟩
    · split at h
      · cases h
      · rename_i bs hbs
        split at h
        · cases h
        · rename_i hd hh
          simp only at h
          obtain ⟨u, hu, h⟩ := andThen_eq_next.mp h
          obtain ⟨b1, rfl⟩ := callOut_eq_next hu
          split at h
          · rename_i hw
            obtain ⟨b, rfl⟩ := releaseAndRespond_eq_next h
            exact ⟨b, [.write hd.tp bs .ok], .sent, by simp [hw], .inr (.inr ⟨hb, hd.tp, bs, .inl ⟨rfl, rfl⟩⟩)⟩
          · rename_i hw
            obtain ⟨b, rfl⟩ := releaseAndRespond_eq_next h
            exact ⟨b, [.write hd.tp bs .fail, .evt 0x03 (.txFrame tf)], .failedTransport,
              by simp [hw, Condition.code, Condition.info, State.raise, State.emit],
              .inr (.inr ⟨hb, hd.tp, bs, .inr ⟨rfl, rfl⟩⟩)⟩

end Sys2Proof.Machine
end

