-- ==== Sys2Proof/Laws/PerInstr.lean ====
section
/-! SUPPORT. One fact about each instruction as syntax: its encoding has its row's format, and a port command's encoding carries that
command's code (R72, R73, R76, R80). -/

namespace Sys2Proof.Laws.EncodedForm

/-- The encoding stands in the format of the instruction's row, and a port command's carries its code. -/
def Statement (i : Instr) : Prop :=
  (Sys2Proof.encode i).format = i.format ∧
  ∀ c, i.command = some c → ∃ a, Sys2Proof.encode i = .command c.code a

theorem bind (n : EndpointName) (t : TransportId) (c : LinkCfg) : Statement (.bind n t c) :=
  ⟨rfl, fun _ h => by cases h; exact ⟨_, rfl⟩⟩
theorem unbind : Statement .unbind := ⟨rfl, fun _ h => by cases h; exact ⟨_, rfl⟩⟩
theorem rxChunk (c : List Byte) : Statement (.rxChunk c) := ⟨rfl, fun _ h => by cases h; exact ⟨_, rfl⟩⟩
theorem txFrame (f : TxFrame) (k : Token) : Statement (.txFrame f k) := ⟨rfl, fun _ h => by cases h; exact ⟨_, rfl⟩⟩
theorem transportClose : Statement .transportClose := ⟨rfl, fun _ h => by cases h; exact ⟨_, rfl⟩⟩
theorem endpointRemove : Statement .endpointRemove := ⟨rfl, fun _ h => by cases h; exact ⟨_, rfl⟩⟩
theorem reserved0 : Statement .reserved0 := ⟨rfl, nofun⟩
theorem reserved7 : Statement .reserved7 := ⟨rfl, nofun⟩
theorem reserved8F (l : BitVec 3) : Statement (.reserved8F l) := ⟨rfl, nofun⟩
theorem encode (f : TxFrame) : Statement (.encode f) := ⟨rfl, nofun⟩
theorem decode (w : List Byte) (off : Nat) : Statement (.decode w off) := ⟨rfl, nofun⟩
theorem feed (c : List Byte) : Statement (.feed c) := ⟨rfl, nofun⟩
theorem wireShort (b : List Byte) : Statement (.wireShort b) := ⟨rfl, nofun⟩
theorem wireNosync (s : Byte) (id : Id16) (len : Byte) : Statement (.wireNosync s id len) := ⟨rfl, nofun⟩
theorem wireBadlen (id : Id16) (len : Byte) : Statement (.wireBadlen id len) := ⟨rfl, nofun⟩
theorem wireFrameL0 (id : Id16) : Statement (.wireFrameL0 id) := ⟨rfl, nofun⟩
theorem wireFrameL1 (id : Id16) : Statement (.wireFrameL1 id) := ⟨rfl, nofun⟩
theorem wireFrameL2 (id : Id16) : Statement (.wireFrameL2 id) := ⟨rfl, nofun⟩
theorem wireFrameL3 (id : Id16) : Statement (.wireFrameL3 id) := ⟨rfl, nofun⟩
theorem wireFrameL4 (id : Id16) : Statement (.wireFrameL4 id) := ⟨rfl, nofun⟩
theorem wireFrameL5 (id : Id16) : Statement (.wireFrameL5 id) := ⟨rfl, nofun⟩
theorem wireFrameL6 (id : Id16) : Statement (.wireFrameL6 id) := ⟨rfl, nofun⟩
theorem wireFrameL7 (id : Id16) : Statement (.wireFrameL7 id) := ⟨rfl, nofun⟩
theorem wireFrameL8 (id : Id16) : Statement (.wireFrameL8 id) := ⟨rfl, nofun⟩

end Sys2Proof.Laws.EncodedForm
end

