-- ==== Sys2Proof/Tests/Slice0.lean ====
section
/-! SUPPORT. Tests of the model. Expected values are those of 95_test_vectors.md (named in each docstring) or words written out from the
tables of 30_encoding.md. The second half holds the witnesses: concrete states and operands that meet the hypotheses of each obligation,
at the ends of their ranges where a statement has clauses. -/

set_option maxRecDepth 10000

namespace Sys2Proof.Tests
open Sys2Proof.Machine

/-! ## Helpers -/

/-- The answers of 95_test_vectors.md part 5: ep1 is handle 2, tp1 is handle 1, otx1 is handle 3; INJECT and WRITE answer OK. -/
def answers : Input := ⟨.control, .handle ⟨2⟩, .handle ⟨1⟩, ⟨3⟩, [], .ok, .ok, none⟩

/-- An Unbound block. -/
def unbound (i : Input) : State := { State.reset with input := i }

/-- "Bound" of 95_test_vectors.md part 5, with its window. -/
def bound (p : Params) (w : List Byte) (i : Input) : State :=
  { State.resetWith p with
    bstate := .bound
    buf := some (Memory.ofWindow w)
    hnd := some ⟨⟨1⟩, ⟨2⟩, ⟨3⟩⟩
    input := i }

/-- The default parameters with another capacity. -/
def cap (n : Nat) : Params := ⟨n, .incompleteFirst, .unmasked⟩

/-- The default parameters under RESYNC_FIRST. -/
def rf : Params := ⟨256, .resyncFirst, .unmasked⟩

/-- Lanes 01 .. 08. -/
def lanes18 : Lanes := ⟨1, 2, 3, 4, 5, 6, 7, 8⟩

/-- `{0x001, 2, [10 20]}`, the frame of the source's own examples. -/
def tf1 : TxFrame := ⟨0x001, 2, ⟨0x10, 0x20, 0, 0, 0, 0, 0, 0⟩⟩

/-- `{0xFFF, 0, []}`. -/
def tfFFF : TxFrame := ⟨0xFFF, 0, lanes18⟩

/-- The next state has the property. -/
def nextIs (o : Out) (p : State → Bool) : Bool :=
  match o with
  | .next s => p s
  | .fault _ => false
  | .refused _ => false

/-- The outcome is this fault. -/
def faults (o : Out) (f : Fault) : Bool :=
  match o with
  | .next _ => false
  | .fault g => decide (g = f)
  | .refused _ => false

/-- The outcome is this refusal. -/
def refuses (o : Out) (r : Refusal) : Bool :=
  match o with
  | .next _ => false
  | .fault _ => false
  | .refused q => decide (q = r)

/-- The trace, the binding and the window after (R146). -/
def observes (o : Out) (t : List TraceEntry) (b : BState) (w : Option (List Byte)) : Bool :=
  nextIs o fun s => decide (s.observe = ⟨t, b, w⟩)

/-- The window after and what was handed back. -/
def leaves (o : Out) (w : Option (List Byte)) (r : FuncResult) : Bool :=
  nextIs o fun s => decide (s.window = w) && decide (s.ret = some r)

/-- The state after, where there is one. -/
def after (o : Out) (s : State) : State :=
  match o with
  | .next t => t
  | .fault _ => s
  | .refused _ => s

/-- A request with these operands. -/
def req (op : OpCode) (a : CmdArgs) : Request := ⟨op, a, answers⟩

/-! ## WellFormed refuses an ill-formed term for each of its checks -/

theorem test_wf_encode_length : wellFormed (.encode ⟨0x010, 9, lanes18⟩) = false ∧ wellFormed (.encode ⟨0x010, 8, lanes18⟩) = true := by
  decide
theorem test_wf_decode_offset : wellFormed (.decode [0xAA] 2) = false ∧ wellFormed (.decode [0xAA] 1) = true := by decide
theorem test_wf_short : wellFormed (.wireShort [0xAA, 0, 1, 2]) = false ∧ wellFormed (.wireShort [0xAA, 0, 1]) = true := by decide
theorem test_wf_nosync : wellFormed (.wireNosync 0xAA 1 0) = false ∧ wellFormed (.wireNosync 0xFF 1 0) = true := by decide
theorem test_wf_badlen : wellFormed (.wireBadlen 1 8) = false ∧ wellFormed (.wireBadlen 1 9) = true := by decide

/-! ## Words written out from R66, R72, R73 and R76 -/

/-- Operands for the command words. -/
def args : CmdArgs := ⟨⟨7⟩, ⟨8⟩, ⟨9⟩, [0xAA, 0x00], tf1, ⟨5⟩⟩

theorem test_word_bind : decode (.command 0b0001 args) = .bind ⟨7⟩ ⟨8⟩ ⟨9⟩ := by decide
theorem test_word_unbind : decode (.command 0b0010 args) = .unbind := by decide
theorem test_word_rxChunk : decode (.command 0b0011 args) = .rxChunk [0xAA, 0x00] := by decide
theorem test_word_txFrame : decode (.command 0b0100 args) = .txFrame tf1 ⟨5⟩ := by decide
theorem test_word_transportClose : decode (.command 0b0101 args) = .transportClose := by decide
theorem test_word_endpointRemove : decode (.command 0b0110 args) = .endpointRemove := by decide
theorem test_word_reserved0 : decode (.command 0b0000 args) = .reserved0 := by decide
theorem test_word_reserved7 : decode (.command 0b0111 args) = .reserved7 := by decide
theorem test_word_reserved8F :
    decode (.command 0b1000 args) = .reserved8F 0 ∧ decode (.command 0b1111 args) = .reserved8F 7 := by decide
theorem test_word_encode : decode (.func (.encode tf1)) = .encode tf1 := by decide
theorem test_word_decode : decode (.func (.decode [0xAA] 1)) = .decode [0xAA] 1 := by decide
theorem test_word_feed : decode (.func (.feed [0xAA])) = .feed [0xAA] := by decide
theorem test_word_short : decode (.window [0xAA, 0x00, 0x01]) = .wireShort [0xAA, 0x00, 0x01] := by decide
theorem test_word_nosync : decode (.window [0xAB, 0x12, 0x34, 0x02]) = .wireNosync 0xAB 0x1234 0x02 := by decide
theorem test_word_badlen : decode (.window [0xAA, 0x12, 0x34, 0xFF]) = .wireBadlen 0x1234 0xFF := by decide
theorem test_word_frames :
    decodeTableWord 32 0b10101010000100100011010000000000 = some (.wireFrameL0 0x1234) ∧
    decodeTableWord 32 0b10101010000100100011010000000001 = some (.wireFrameL1 0x1234) ∧
    decodeTableWord 32 0b10101010000100100011010000000010 = some (.wireFrameL2 0x1234) ∧
    decodeTableWord 32 0b10101010000100100011010000000011 = some (.wireFrameL3 0x1234) ∧
    decodeTableWord 32 0b10101010000100100011010000000100 = some (.wireFrameL4 0x1234) ∧
    decodeTableWord 32 0b10101010000100100011010000000101 = some (.wireFrameL5 0x1234) ∧
    decodeTableWord 32 0b10101010000100100011010000000110 = some (.wireFrameL6 0x1234) ∧
    decodeTableWord 32 0b10101010000100100011010000000111 = some (.wireFrameL7 0x1234) ∧
    decodeTableWord 32 0b10101010000100100011010000001000 = some (.wireFrameL8 0x1234) := by decide

/-- A byte with a bit above `op[3:0]` is no command word. -/
theorem test_word_bits_above_op : decodeTableWord 8 0x13 = none ∧ decodeTableWord 8 0x100 = none := by decide

/-! ## The FrameCodec -/

/-- FE-4 and FE-8. -/
theorem test_encode_lengths :
    encodeFrame .unmasked ⟨0x123, 8, lanes18⟩ = some [0xAA, 0x01, 0x23, 0x08, 1, 2, 3, 4, 5, 6, 7, 8] ∧
    encodeFrame .unmasked ⟨0x0FFF, 3, lanes18⟩ = some [0xAA, 0x0F, 0xFF, 0x03, 1, 2, 3] := by decide

/-- FE-6a, FE-6b, FE-6c. -/
theorem test_encode_modes :
    leaves (exec (.encode tfFFF) (bound ⟨256, .incompleteFirst, .unmasked⟩ [] answers)) (some []) (.bytes [0xAA, 0x0F, 0xFF, 0x00]) ∧
    leaves (exec (.encode tfFFF) (bound ⟨256, .incompleteFirst, .mask11⟩ [] answers)) (some []) (.bytes [0xAA, 0x07, 0xFF, 0x00]) ∧
    refuses (exec (.encode tfFFF) (bound ⟨256, .incompleteFirst, .refuse⟩ [] answers)) .encodeIdOverrange := by decide

/-- FD-2, FD-6, FD-10, FD-12, FD-18 and FD-13. -/
theorem test_decode_vectors :
    decodeAt .incompleteFirst [0xFF] 0 = .incomplete ∧ decodeAt .resyncFirst [0xFF] 0 = .resync ∧
    decodeAt .incompleteFirst [0xAA, 0x00, 0x01, 0x09] 0 = .resync ∧
    decodeAt .incompleteFirst [0xAA, 0xF8, 0x00, 0x00] 0 = .frame ⟨0x000, 0, []⟩ 4 ∧
    decodeAt .incompleteFirst [0xAA, 0xAA, 0x00, 0x01, 0x00] 0 = .frame ⟨0x200, 1, [0x00]⟩ 5 ∧
    decodeAt .resyncFirst [0xAA, 0x00, 0x01, 0x09] 4 = .incomplete ∧
    decodeAt .resyncFirst [0xAA, 0x00, 0x00, 0x08, 0xAA, 0x00, 0x01, 0x00] 0 = .incomplete := by decide

/-- FD-14: an offset of 2. -/
theorem test_decode_offset :
    leaves (exec (.decode [0xFF, 0xFF, 0xAA, 0x00, 0x01, 0x00] 2) (unbound answers)) none (.decoded (.frame ⟨0x001, 0, []⟩ 4)) := by
  decide

/-! ## FEED -/

/-- WX-3, WX-6 and its RF note. -/
theorem test_feed_noise :
    leaves (exec (.feed [0xFF, 0xFF, 0xAA, 0x00, 0x01, 0x02, 0x10, 0x20]) (bound (cap 256) [] answers)) (some [])
      (.frames [⟨1, 2, [0x10, 0x20]⟩]) ∧
    leaves (exec (.feed [0xAA, 0x00, 0x01, 0x09]) (bound (cap 256) [] answers)) (some [0x00, 0x01, 0x09]) (.frames []) ∧
    leaves (exec (.feed [0xAA, 0x00, 0x01, 0x09]) (bound rf [] answers)) (some []) (.frames []) := by decide

/-- FF-12: a chunk that fills BUF exactly does not overflow, and one byte more does. -/
theorem test_feed_full :
    nextIs (exec (.feed [0xAA, 0x00, 0x01, 0x05, 1, 2, 3, 4]) (bound (cap 8) [] answers))
      (fun s => decide (s.pending = some 8) && decide (s.trace = [])) ∧
    nextIs (exec (.feed [0x55]) (bound (cap 8) [0xAA, 0x00, 0x01, 0x05, 1, 2, 3, 4] answers))
      (fun s => decide (s.window = some [0x55]) && decide (s.trace = [.evt 0x01 (.loss 8 1)])) := by decide

/-! ## One pass for each row of R76 -/

theorem test_wire_short :
    leaves (exec (.wireShort [0xFF]) (bound (cap 256) [0xFF] answers)) (some [0xFF]) (.decoded .incomplete) ∧
    leaves (exec (.wireShort [0xFF]) (bound rf [0xFF] answers)) (some []) (.decoded .resync) := by decide
theorem test_wire_nosync :
    leaves (exec (.wireNosync 0xFF 0x0001 0) (bound (cap 256) [0xFF, 0x00, 0x01, 0x00] answers)) (some [0x00, 0x01, 0x00])
      (.decoded .resync) := by decide
theorem test_wire_badlen :
    leaves (exec (.wireBadlen 0x0001 9) (bound (cap 256) [0xAA, 0x00, 0x01, 0x09] answers)) (some [0x00, 0x01, 0x09])
      (.decoded .resync) := by decide
/-- FD-11 and FD-8. -/
theorem test_wire_frames :
    leaves (exec (.wireFrameL0 0x1234) (bound (cap 256) [0xAA, 0x12, 0x34, 0x00, 0xEE] answers)) (some [0xEE])
      (.decoded (.frame ⟨0x234, 0, []⟩ 4)) ∧
    leaves (exec (.wireFrameL2 0x0001) (bound (cap 256) [0xAA, 0x00, 0x01, 0x02, 0x10] answers)) (some [0xAA, 0x00, 0x01, 0x02, 0x10])
      (.decoded .incomplete) ∧
    leaves (exec (.wireFrameL1 0xAA00) (bound (cap 256) [0xAA, 0xAA, 0x00, 0x01, 0x00] answers)) (some [])
      (.decoded (.frame ⟨0x200, 1, [0x00]⟩ 5)) := by decide
/-- A payload one byte short, and whole, for the lengths 3 to 7 (R76 rows 4 and 5). -/
theorem test_wire_frames_3_to_7 :
    leaves (exec (.wireFrameL3 1) (bound (cap 256) [0xAA, 0, 1, 3, 1, 2] answers)) (some [0xAA, 0, 1, 3, 1, 2]) (.decoded .incomplete) ∧
    leaves (exec (.wireFrameL4 1) (bound (cap 256) [0xAA, 0, 1, 4, 1, 2, 3, 4] answers)) (some []) (.decoded (.frame ⟨1, 4, [1, 2, 3, 4]⟩ 8)) ∧
    leaves (exec (.wireFrameL5 1) (bound (cap 256) [0xAA, 0, 1, 5, 1, 2, 3, 4, 5, 6] answers)) (some [6])
      (.decoded (.frame ⟨1, 5, [1, 2, 3, 4, 5]⟩ 9)) ∧
    leaves (exec (.wireFrameL6 1) (bound (cap 256) [0xAA, 0, 1, 6, 1, 2, 3, 4, 5, 6] answers)) (some [])
      (.decoded (.frame ⟨1, 6, [1, 2, 3, 4, 5, 6]⟩ 10)) ∧
    leaves (exec (.wireFrameL7 1) (bound (cap 256) [0xAA, 0, 1, 7, 1, 2, 3, 4, 5, 6] answers)) (some [0xAA, 0, 1, 7, 1, 2, 3, 4, 5, 6])
      (.decoded .incomplete) := by decide
/-- FD-15: the longest frame. -/
theorem test_wire_frame_l8 :
    leaves (exec (.wireFrameL8 0x0123) (bound (cap 256) [0xAA, 0x01, 0x23, 0x08, 1, 2, 3, 4, 5, 6, 7, 8] answers)) (some [])
      (.decoded (.frame ⟨0x123, 8, [1, 2, 3, 4, 5, 6, 7, 8]⟩ 12)) := by decide

/-! ## The commands -/

/-- FC-1. -/
theorem test_bind_success :
    observes (exec (.bind ⟨7⟩ ⟨8⟩ ⟨9⟩) (unbound answers))
      [.resolve ⟨7⟩ (.handle ⟨2⟩), .openTransport ⟨8⟩ (.handle ⟨1⟩), .config ⟨9⟩, .attachRx, .install ⟨3⟩, .resp .bind (.bind .ok)]
      .bound (some []) := by decide
/-- FC-2, FC-3 and FC-4. -/
theorem test_bind_errors :
    observes (exec (.bind ⟨7⟩ ⟨8⟩ ⟨9⟩) (bound (cap 256) [0xAA, 0x00] answers)) [.resp .bind (.bind .alreadyBound)] .bound
      (some [0xAA, 0x00]) ∧
    observes (exec (.bind ⟨7⟩ ⟨8⟩ ⟨9⟩) (unbound { answers with resolve := .notFound }))
      [.resolve ⟨7⟩ .notFound, .resp .bind (.bind .endpointNotFound)] .unbound none ∧
    observes (exec (.bind ⟨7⟩ ⟨8⟩ ⟨9⟩) (unbound { answers with opened := .unavailable }))
      [.resolve ⟨7⟩ (.handle ⟨2⟩), .openTransport ⟨8⟩ .unavailable, .resp .bind (.bind .transportUnavailable)] .unbound none := by decide
/-- FC-6 and FC-7. -/
theorem test_unbind :
    observes (exec .unbind (bound (cap 256) [0xAA, 0x00] answers)) [.restore ⟨3⟩, .detachRx, .resp .unbind .done] .unbound none ∧
    observes (exec .unbind (unbound answers)) [.resp .unbind .done] .unbound none := by decide
/-- FC-15. -/
theorem test_transport_close :
    observes (exec .transportClose (bound (cap 256) [] answers)) [.restore ⟨3⟩, .detachRx, .resp .transportClose .done] .unbound none := by
  decide
/-- FC-16. -/
theorem test_endpoint_remove :
    observes (exec .endpointRemove (bound (cap 256) [] answers)) [.restore ⟨3⟩, .detachRx, .resp .endpointRemove .done] .unbound none := by
  decide
/-- FC-9 and FC-8. -/
theorem test_rx_chunk :
    observes (exec (.rxChunk [0xAA, 0x00, 0x01, 0x00, 0xAA, 0x00, 0x02, 0x00])
        (bound (cap 256) [] { answers with injects := [.fail, .ok], injectRest := .fail }))
      [.inject ⟨2⟩ ⟨1, 0, []⟩ .fail, .evt 0x02 (.frame ⟨1, 0, []⟩), .inject ⟨2⟩ ⟨2, 0, []⟩ .ok, .resp .rxChunk .done] .bound (some []) ∧
    observes (exec (.rxChunk [0xAA, 0x00, 0x01, 0x00]) (unbound answers)) [.evt 0x05 (.chunkLen 4), .resp .rxChunk .done] .unbound none := by
  decide
/-- FC-23 and FC-21. -/
theorem test_rx_overflow :
    observes (exec (.rxChunk [0x02, 0x03, 0xAA, 0x00, 0x05, 0x00]) (bound (cap 8) [0xAA, 0x00, 0x01, 0x03, 0x01] answers))
      [.evt 0x01 (.loss 5 6), .inject ⟨2⟩ ⟨5, 0, []⟩ .ok, .resp .rxChunk .done] .bound (some []) ∧
    refuses (exec (.rxChunk [0, 0, 0, 0, 0, 0, 0, 0, 0]) (bound (cap 8) [] answers)) .chunkTooLong := by decide
/-- FC-10 and FC-11. -/
theorem test_tx_write :
    observes (exec (.txFrame ⟨0x123, 2, ⟨0xDE, 0xAD, 0, 0, 0, 0, 0, 0⟩⟩ ⟨1⟩) (bound (cap 256) [] answers))
      [.write ⟨1⟩ [0xAA, 0x01, 0x23, 0x02, 0xDE, 0xAD] .ok, .release ⟨1⟩, .resp .txFrame (.tx .sent)] .bound (some []) ∧
    observes (exec (.txFrame ⟨0x123, 2, ⟨0xDE, 0xAD, 0, 0, 0, 0, 0, 0⟩⟩ ⟨2⟩) (bound (cap 256) [] { answers with write := .fail }))
      [.write ⟨1⟩ [0xAA, 0x01, 0x23, 0x02, 0xDE, 0xAD] .fail, .evt 0x03 (.txFrame ⟨0x123, 2, ⟨0xDE, 0xAD, 0, 0, 0, 0, 0, 0⟩⟩),
        .release ⟨2⟩, .resp .txFrame (.tx .failedTransport)] .bound (some []) := by decide
/-- FC-12 and FC-14. -/
theorem test_tx_dropped :
    observes (exec (.txFrame ⟨0x010, 9, lanes18⟩ ⟨3⟩) (bound (cap 256) [] answers))
      [.evt 0x04 (.txFrame ⟨0x010, 9, lanes18⟩), .release ⟨3⟩, .resp .txFrame (.tx .failedMalformed)] .bound (some []) ∧
    observes (exec (.txFrame ⟨0x001, 9, lanes18⟩ ⟨5⟩) (unbound answers))
      [.evt 0x06 (.txFrame ⟨0x001, 9, lanes18⟩), .release ⟨5⟩, .resp .txFrame (.tx .failedNotBound)] .unbound none := by decide
/-- FC-18. -/
theorem test_reserved :
    refuses (step { unbound answers with inbox := [req 0x0 args] }) (.reservedCommand 0x0) ∧
    refuses (step { bound (cap 8) [] answers with inbox := [req 0x7 args], lock := .held .rx }) (.reservedCommand 0x7) ∧
    refuses (step { unbound answers with inbox := [req 0xF args] }) (.reservedCommand 0xF) := by decide
/-- P5: the echo endpoint re-enters the block from its first INJECT; an endpoint that does not leaves RESP(RX_CHUNK, DONE). -/
theorem test_reentrant_echo :
    faults (exec (.rxChunk [0xAA, 0x00, 0x01, 0x00]) (bound (cap 256) [] { answers with breach := some ⟨0, .reenters⟩ })) .lockReentered ∧
    observes (exec (.rxChunk [0xAA, 0x00, 0x01, 0x00]) (bound (cap 256) [] answers))
      [.inject ⟨2⟩ ⟨1, 0, []⟩ .ok, .resp .rxChunk .done] .bound (some []) := by decide

/-! ## Steps and reset -/

/-- R135, and the idle step. -/
theorem test_reset_waits : observes (step State.reset) [] .unbound none := by decide

/-- A placed header runs its row: `AA 00 01 02` and two payload bytes of zeros. -/
theorem test_placed_header :
    leaves (step (State.reset.withFetchWord 32 0xAA000102)) (some []) (.decoded (.frame ⟨1, 2, [0, 0]⟩ 6)) := by decide

/-- A placed command code runs its command. -/
theorem test_placed_command : observes (step (State.reset.withFetchWord 8 0x2)) [.resp .unbind .done] .unbound none := by decide

/-- R75's table. -/
theorem test_response_codes :
    [BindResult.ok, .endpointNotFound, .transportUnavailable, .alreadyBound].map BindResult.code = [0, 1, 2, 3] ∧
    [TxOutcome.sent, .failedTransport, .failedMalformed, .failedNotBound].map TxOutcome.code = [0, 1, 2, 3] ∧
    (Response.tx .failedMalformed).code = 2 ∧ (Response.bind .alreadyBound).code = 3 ∧ Response.done.code = 0 ∧
    (DecodeResult.frame ⟨1, 0, []⟩ 4).code = 0 ∧ DecodeResult.incomplete.code = 1 ∧ DecodeResult.resync.code = 2 := by decide

/-- R34: BSTATE in bit 0 and PENDING from bit 1 on. -/
theorem test_status_word :
    (bound (cap 8) [0xAA, 0x00, 0x01] answers).statusWord = 0b111 ∧ (unbound answers).statusWord = 0 := by decide

/-- FC-19: both lock orders of the two agents' programs are orders of R60. -/
theorem test_lock_orders (c t : Request) (hc : c.input.agent = .control) (ht : t.input.agent = .tx) :
    let programs : Agent → List Request := fun a => if a = .control then [c] else if a = .tx then [t] else []
    LockOrder programs [c, t] ∧ LockOrder programs [t, c] := by
  constructor <;> intro a <;> cases a <;> simp [hc, ht]

/-! ## Witnesses: the hypotheses of the obligations can be met -/

/-- For DecodeEncodeRoundTrip. -/
theorem witness_DecodeEncodeRoundTrip :
    wellFormed (.encode ⟨0, 8, lanes18⟩) = true ∧ wellFormed (.decode [] 0) = true ∧ wellFormed (.wireShort []) = true ∧
    wellFormed (.wireNosync 0xAB 0xFFFF 0xFF) = true ∧ wellFormed (.wireBadlen 0xFFFF 0xFF) = true ∧ wellFormed .unbind = true := by decide

/-- For ReservedCodesAreRefused. -/
theorem witness_ReservedCodesAreRefused :
    ((0x0 : OpCode) = 0x0 ∨ 0x7 ≤ (0x0 : OpCode)) ∧ ((0x7 : OpCode) = 0x0 ∨ 0x7 ≤ (0x7 : OpCode)) ∧
    ((0xF : OpCode) = 0x0 ∨ 0x7 ≤ (0xF : OpCode)) ∧ ¬((0x6 : OpCode) = 0x0 ∨ 0x7 ≤ (0x6 : OpCode)) ∧
    (unbound answers).inner = none ∧ { unbound answers with inbox := [req 0x7 args] }.inbox = req 0x7 args :: [] := by decide

/-- For AppendPutsTheChunkAfterTheWindow and DropFrontShiftsTheRestToIndexZero: the first and the last k. -/
theorem witness_Buffer :
    (Memory.ofWindow [1, 2, 3]).wf ∧ 1 ≤ 1 ∧ 1 ≤ (Memory.ofWindow [1, 2, 3]).pending ∧ 3 ≤ (Memory.ofWindow [1, 2, 3]).pending ∧
    2 < (Memory.ofWindow [1, 2, 3]).pending ∧ (Memory.ofWindow ([] : List Byte)).wf := by decide

/-- For EncodeGivesTheWireFrame: both ends of the length, each mode, both sides of 0x7FF. -/
theorem witness_Encode :
    (⟨0x7FF, 8, lanes18⟩ : TxFrame).length.toNat ≤ 8 ∧ tfFFF.length.toNat ≤ 8 ∧ (0x7FF : Id16) ≤ 0x7FF ∧ (0x7FF : Id16) < 0x800 ∧
    (bound ⟨256, .incompleteFirst, .unmasked⟩ [] answers).params.encodeIdMode = .unmasked ∧
    (bound ⟨256, .incompleteFirst, .mask11⟩ [] answers).params.encodeIdMode = .mask11 ∧
    (bound ⟨256, .incompleteFirst, .refuse⟩ [] answers).params.encodeIdMode = .refuse ∧
    encodeFrame .refuse ⟨0x7FF, 8, lanes18⟩ = some [0xAA, 0x07, 0xFF, 0x08, 1, 2, 3, 4, 5, 6, 7, 8] := by decide

/-- For DecodeTestsInOrder: an offset at the end, one with 3 bytes after it, a first byte that is not SYNC under each order, and the
lengths 8 and 9 with the payload one byte short and whole. -/
theorem witness_DecodeTestsInOrder :
    (4 ≤ [0xAA, 0x00, 0x01, 0x09].length ∧ ([0xAA, 0x00, 0x01, 0x09] : List Byte).length - 4 = 0) ∧
    (([0xAA, 0x00, 0x01] : List Byte)[0]? = some 0xAA ∧ ([0xAA, 0x00, 0x01] : List Byte).length - 0 < 4) ∧
    (([0xFF, 0x00, 0x01, 0x00] : List Byte)[0]? = some 0xFF ∧ (0xFF : Byte) ≠ 0xAA ∧ 4 ≤ ([0xFF, 0x00, 0x01, 0x00] : List Byte).length - 0) ∧
    (8 < (9 : Byte).toNat ∧ (8 : Byte).toNat ≤ 8) ∧
    (([0xAA, 0, 1, 8, 1, 2, 3, 4, 5, 6, 7] : List Byte)[3]? = some 8 ∧ ([0xAA, 0, 1, 8, 1, 2, 3, 4, 5, 6, 7] : List Byte).length - 0 < 4 + 8) ∧
    4 + 8 ≤ ([0xAA, 0, 1, 8, 1, 2, 3, 4, 5, 6, 7, 8] : List Byte).length - 0 := by decide

/-- For DecodeHandsBackItsVerdict and InternalFunctionsStopOutsideTheirOperands. -/
theorem witness_InternalFunctions :
    1 ≤ ([0xAA] : List Byte).length ∧ ([0xAA] : List Byte).length < 2 ∧ 8 < (⟨0, 9, lanes18⟩ : TxFrame).length.toNat := by decide

/-- For OrdersDifferOnlyOnShortNoise. -/
theorem witness_OrdersDifferOnlyOnShortNoise :
    ([] : List Byte).length = 0 ∧ 4 ≤ ([0, 0, 0, 0] : List Byte).length ∧ ([0xAA] : List Byte)[0]? = some 0xAA ∧
    0 < ([0xFF] : List Byte).length ∧ ([0xFF, 0, 0] : List Byte).length < 4 ∧ ([0xFF, 0, 0] : List Byte)[0]? ≠ some 0xAA := by decide

/-- For DecodeUndoesEncode: WX-1, and FE-6a for an identifier above 0x7FF. -/
theorem witness_DecodeUndoesEncode :
    tf1.length.toNat ≤ 8 ∧ encodeFrame .unmasked tf1 = some [0xAA, 0x00, 0x01, 0x02, 0x10, 0x20] ∧ tf1.id ≤ 0x7FF ∧
    encodeFrame .unmasked tfFFF = some [0xAA, 0x0F, 0xFF, 0x00] ∧ ¬tfFFF.id ≤ 0x7FF := by decide

/-- For VerdictSurvivesMoreBytes and DecodeReadsOnlyTheFramesBytes. -/
theorem witness_Verdicts :
    decodeAt .incompleteFirst [0xFF, 0, 0, 0] 0 ≠ .incomplete ∧
    decodeAt .incompleteFirst [0xAA, 0x00, 0x01, 0x00] 0 = .frame ⟨1, 0, []⟩ 4 := by decide

/-- For UnreadLanesDoNotMatter: lanes 2 to 7 differ. -/
theorem witness_UnreadLanesDoNotMatter :
    let f : TxFrame := ⟨1, 2, lanes18⟩
    let g : TxFrame := ⟨1, 2, ⟨1, 2, 9, 9, 9, 9, 9, 9⟩⟩
    f.id = g.id ∧ f.length = g.length ∧ f.length.toNat ≤ 8 ∧
    (∀ i, i < f.length.toNat → (lanesList f.lanes)[i]? = (lanesList g.lanes)[i]?) ∧ f ≠ g ∧
    (bound (cap 8) [] answers).bstate = .bound ∧ (bound (cap 8) [] answers).input.write = .ok := by decide

/-- For the rows of the header classification: a window exists; under RESYNC_FIRST a short one may begin with noise. -/
theorem witness_Rows :
    (bound rf [0xFF] answers).buf = some (Memory.ofWindow [0xFF]) ∧ (bound rf [0xFF] answers).params.decodeOrder = .resyncFirst ∧
    ([0xFF] : List Byte) = 0xFF :: [] ∧ (0xFF : Byte) ≠ 0xAA ∧ (bound (cap 8) [] answers).params.decodeOrder = .incompleteFirst ∧
    ([0xAA, 0] : List Byte)[0]? = some 0xAA := by decide

/-- For FrameRowsYieldOrWait: PENDING one below and at 4 + L, for the shortest and the longest frame. -/
theorem witness_FrameRowsYieldOrWait :
    (Memory.ofWindow [0xAA, 0, 1]).pending < 4 + 0 ∧ 4 + 0 ≤ (Memory.ofWindow [0xAA, 0, 1, 0]).pending ∧
    (Memory.ofWindow [0xAA, 0, 1, 8, 1, 2, 3, 4, 5, 6, 7]).pending < 4 + 8 ∧
    4 + 8 ≤ (Memory.ofWindow [0xAA, 0, 1, 8, 1, 2, 3, 4, 5, 6, 7, 8]).pending := by decide

/-- For ScanFollowsItsSteps: each verdict occurs. -/
theorem witness_ScanFollowsItsSteps :
    decodeAt .resyncFirst [0xFF] 0 = .resync ∧ decodeAt .resyncFirst [] 0 = .incomplete ∧
    decodeAt .resyncFirst [0xAA, 0, 1, 1, 7, 9] 0 = .frame ⟨1, 1, [7]⟩ 5 := by decide

/-- For FeedAppendsAndScans: BUF exactly full, and one byte more. -/
theorem witness_FeedAppendsAndScans :
    (bound (cap 3) [0xAA, 0x00] answers).buf = some (Memory.ofWindow [0xAA, 0x00]) ∧ ([1] : List Byte).length ≤ (cap 3).capacity ∧
    (Memory.ofWindow [0xAA, 0x00]).pending + ([1] : List Byte).length ≤ (cap 3).capacity ∧
    (cap 3).capacity < (Memory.ofWindow [0xAA, 0x00]).pending + ([1, 2] : List Byte).length := by decide

/-- For LongChunksAreRefused. -/
theorem witness_LongChunksAreRefused :
    (bound (cap 8) [] answers).params.capacity < ([0, 0, 0, 0, 0, 0, 0, 0, 0] : List Byte).length := by decide

/-- For FeedLeavesAStableWindow and YieldedFramesFitTheBuffer: a FEED that yields a frame. -/
theorem witness_FeedYields :
    let t := after (exec (.feed [0xAA, 0x00, 0x01, 0x00, 0xAA]) (bound (cap 8) [] answers)) State.reset
    exec (.feed [0xAA, 0x00, 0x01, 0x00, 0xAA]) (bound (cap 8) [] answers) = .next t ∧ t.ret = some (.frames [⟨1, 0, []⟩]) ∧
    (⟨1, 0, []⟩ : Frame) ∈ [(⟨1, 0, []⟩ : Frame)] := by
  refine ⟨rfl, ?_, ?_⟩ <;> decide

/-- For EmptyChunkChangesNothing. -/
theorem witness_EmptyChunkChangesNothing :
    (bound (cap 8) [0xAA, 0x00] answers).buf.isSome = true ∧ (bound (cap 8) [0xAA, 0x00] answers).bounded ∧
    (bound (cap 8) [0xAA, 0x00] answers).stable := by
  refine ⟨rfl, ?_, ?_⟩ <;> intro m h <;> cases h <;> decide

/-- For ChunkingDoesNotChangeTheFrames: WX-4, with no byte of BUF to spare. -/
theorem witness_ChunkingDoesNotChangeTheFrames :
    (bound (cap 6) [] answers).buf = some (Memory.ofWindow []) ∧
    (([0xAA, 0x00, 0x01] : List Byte) ++ [0x02, 0x10, 0x20]).length ≤ (cap 6).maxChunk ∧
    (Memory.ofWindow []).pending + ([0xAA, 0x00, 0x01] : List Byte).length + ([0x02, 0x10, 0x20] : List Byte).length ≤ (cap 6).capacity := by
  decide

/-- For BindCreatesTheBinding and BindReportsTheFirstError. -/
theorem witness_Bind :
    (unbound answers).ready ∧ (unbound answers).bstate = .unbound ∧ (unbound answers).input.resolve = .handle ⟨2⟩ ∧
    (unbound answers).input.opened = .handle ⟨1⟩ ∧ (bound (cap 8) [] answers).ready ∧ (bound (cap 8) [] answers).bstate = .bound ∧
    (unbound { answers with resolve := .notFound }).ready ∧ (unbound { answers with resolve := .notFound }).input.resolve = .notFound ∧
    (unbound { answers with opened := .unavailable }).ready ∧
    (unbound { answers with opened := .unavailable }).input.opened = .unavailable := by decide

/-- For UnbindTearsTheBindingDown, CloseAndRemovalActAsUnbind, RxChunkInjectsEveryFrame and RxWhileUnboundIsANoOp. -/
theorem witness_Bound :
    (bound (cap 8) [0xAA] answers).ready ∧ (bound (cap 8) [0xAA] answers).bstate = .bound ∧
    (bound (cap 8) [0xAA] answers).hnd = some ⟨⟨1⟩, ⟨2⟩, ⟨3⟩⟩ ∧
    (bound (cap 8) [0xAA] answers).buf = some (Memory.ofWindow [0xAA]) ∧
    ([0, 0, 0, 0, 0, 0, 0, 0] : List Byte).length ≤ (bound (cap 8) [0xAA] answers).params.capacity ∧
    (unbound answers).ready ∧ (unbound answers).bstate = .unbound ∧ ([] : List Byte).length ≤ (unbound answers).params.capacity := by decide

/-- For OnlyItsCommandsMoveTheBinding, LockIsReleased, EveryCommandRespondsOnce, TraceOnlyGrows and ParametersAreFixed: instructions
that complete from a free LOCK, and a step that does. -/
theorem witness_Completes :
    exec (.bind ⟨7⟩ ⟨8⟩ ⟨9⟩) (unbound answers) = .next (after (exec (.bind ⟨7⟩ ⟨8⟩ ⟨9⟩) (unbound answers)) State.reset) ∧
    exec .unbind (bound (cap 8) [] answers) = .next (after (exec .unbind (bound (cap 8) [] answers)) State.reset) ∧
    (unbound answers).lock = .free ∧ (bound (cap 8) [] answers).lock = .free ∧
    (Instr.unbind).command = some .unbind ∧ step State.reset = .next State.reset := by
  refine ⟨rfl, rfl, rfl, rfl, rfl, rfl⟩

/-- For TxFrameWritesTheWireFrame, MalformedTxFrameIsDropped and TxWhileUnboundIsReleased: both answers of the WRITE, and the lengths
8 and 9. -/
theorem witness_TxFrame :
    (bound (cap 8) [] answers).ready ∧ (bound (cap 8) [] answers).bstate = .bound ∧
    (bound (cap 8) [] answers).hnd = some ⟨⟨1⟩, ⟨2⟩, ⟨3⟩⟩ ∧ (⟨0x7FF, 8, lanes18⟩ : TxFrame).length.toNat ≤ 8 ∧
    encodeFrame (cap 8).encodeIdMode ⟨0x7FF, 8, lanes18⟩ = some [0xAA, 0x07, 0xFF, 0x08, 1, 2, 3, 4, 5, 6, 7, 8] ∧
    (bound (cap 8) [] answers).input.write = .ok ∧ (bound (cap 8) [] { answers with write := .fail }).input.write = .fail ∧
    (bound (cap 8) [] { answers with write := .fail }).ready ∧ 8 < (⟨0x7FF, 9, lanes18⟩ : TxFrame).length.toNat ∧
    (unbound answers).ready ∧ (unbound answers).bstate = .unbound := by decide

/-- For RefuseModeRefusesLongIdentifiers. -/
theorem witness_RefuseModeRefusesLongIdentifiers :
    let s := bound ⟨8, .incompleteFirst, .refuse⟩ [] answers
    s.lock = .free ∧ s.bstate = .bound ∧ s.params.encodeIdMode = .refuse ∧ (⟨0x800, 8, lanes18⟩ : TxFrame).length.toNat ≤ 8 ∧
    0x7FF < (⟨0x800, 8, lanes18⟩ : TxFrame).id := by decide

/-- For TokenIsReleasedExactlyOnce and TransmitNeverTouchesTheWindow: a TX_FRAME that completes, and the RX_CHUNK before and after it. -/
theorem witness_TransmitThenReceive :
    let s := bound (cap 8) [] answers
    let t := after (exec (.txFrame tf1 ⟨1⟩) s) State.reset
    s.lock = .free ∧ exec (.txFrame tf1 ⟨1⟩) s = .next t ∧
    exec (.rxChunk [0xAA]) t = .next (after (exec (.rxChunk [0xAA]) t) State.reset) ∧
    exec (.rxChunk [0xAA]) s = .next (after (exec (.rxChunk [0xAA]) s) State.reset) := by
  refine ⟨rfl, rfl, rfl, rfl⟩

/-- A Bound block between commands meets the invariant. -/
theorem bound_inv : (bound (cap 16) [0xAA, 0x00] answers).Inv :=
  ⟨rfl, rfl, ⟨rfl, rfl⟩, (by intro m h; cases h; decide), (by intro m h; cases h; decide), (by intro ep f r h; cases h)⟩

/-- For SmallChunksNeverOverflow: the longest chunk it admits. -/
theorem witness_SmallChunksNeverOverflow :
    (bound (cap 16) [0xAA, 0x00] answers).Inv ∧ (bound (cap 16) [0xAA, 0x00] answers).lawful ∧ 12 ≤ (cap 16).capacity ∧
    ([1, 2, 3, 4, 5] : List Byte).length + 11 ≤ (cap 16).capacity := by
  refine ⟨bound_inv, ?_, ?_, ?_⟩ <;> decide

/-- For LockKeepsCommandsApart: LOCK held by the asking agent, and by another one. -/
theorem witness_LockKeepsCommandsApart :
    let s : State := { bound (cap 8) [] answers with lock := .held .rx }
    (Instr.rxChunk [0xAA]).command = some .rxChunk ∧ s.lock = .held .rx ∧
    ([0xAA] : List Byte).length ≤ s.params.capacity ∧ .rx ≠ s.input.agent ∧
    { s with lock := .held .control }.lock = .held { s with lock := .held .control }.input.agent := by decide

/-- For ReentrantCollaboratorIsStuck: P5. -/
theorem witness_ReentrantCollaboratorIsStuck :
    let s := bound (cap 256) [] { answers with breach := some ⟨0, .reenters⟩ }
    s.lock = .free ∧ s.bstate = .bound ∧ s.buf = some (Memory.ofWindow []) ∧ s.hnd = some ⟨⟨1⟩, ⟨2⟩, ⟨3⟩⟩ ∧
    s.input.breach = some ⟨0, .reenters⟩ ∧ ([0xAA, 0x00, 0x01, 0x00] : List Byte).length ≤ s.params.capacity ∧
    (scan .incompleteFirst ([] ++ [0xAA, 0x00, 0x01, 0x00])).frames ≠ [] ∧ tf1.length.toNat ≤ 8 ∧
    encodeFrame .unmasked tf1 = some [0xAA, 0x00, 0x01, 0x02, 0x10, 0x20] := by decide

/-- For ReentrantCollaboratorIsStuck: a BIND with its five calls, where the last call is number 4 and number 5 is past them. -/
theorem witness_ReentrantInBind :
    let s := unbound answers
    let t := after (exec (.bind ⟨7⟩ ⟨8⟩ ⟨9⟩) s) State.reset
    (Instr.bind ⟨7⟩ ⟨8⟩ ⟨9⟩).command = some .bind ∧ s.lock = .free ∧ s.lawful ∧ exec (.bind ⟨7⟩ ⟨8⟩ ⟨9⟩) s = .next t ∧
    t.trace = s.trace ++ t.trace ∧ 4 < t.trace.countP TraceEntry.isCall ∧ t.trace.countP TraceEntry.isCall ≤ 5 := by
  refine ⟨rfl, rfl, rfl, rfl, rfl, ?_, ?_⟩ <;> decide

/-- R131: stuck in ATTACH_RX of BIND, in DETACH_RX of UNBIND, in the RELEASE of TX_FRAME and in the second INJECT of RX_CHUNK. -/
theorem test_stuck_in_later_calls :
    faults (exec (.bind ⟨7⟩ ⟨8⟩ ⟨9⟩) ((unbound answers).breaks 3 .neverReturns)) .callNeverReturns ∧
    faults (exec .unbind ((bound (cap 8) [] answers).breaks 1 .reenters)) .lockReentered ∧
    faults (exec (.txFrame tf1 ⟨1⟩) ((bound (cap 8) [] answers).breaks 1 .reenters)) .lockReentered ∧
    faults (exec (.rxChunk [0xAA, 0, 1, 0, 0xAA, 0, 2, 0]) ((bound (cap 8) [] answers).breaks 1 .neverReturns)) .callNeverReturns := by
  decide

/-- For UnboundCommandsCallNoCollaborator. -/
theorem witness_UnboundCommandsCallNoCollaborator :
    (Instr.txFrame tf1 ⟨1⟩).command = some .txFrame ∧ Command.txFrame ≠ .bind ∧ (unbound answers).bstate = .unbound ∧
    exec (.txFrame tf1 ⟨1⟩) (unbound answers) = .next (after (exec (.txFrame tf1 ⟨1⟩) (unbound answers)) State.reset) := by
  refine ⟨rfl, ?_, rfl, rfl⟩; decide

/-- For StepRunsTheFetchedInstruction: each clause's premises. -/
theorem witness_StepRunsTheFetchedInstruction :
    let s : State := { bound (cap 8) [] answers with inbox := [req 0x2 args] }
    (s.inner = none ∧ s.inbox = req 0x2 args :: [] ∧ s.lock = .free) ∧
    ({ s with lock := .held .rx }.lock = .held .rx ∧ .rx ≠ (req 0x2 args).input.agent ∧
      asksLock (decode (.command 0x2 args)) s = true ∧ asksLock (decode (.command 0x7 args)) s = false) ∧
    ((bound (cap 8) [] answers).inner = none ∧ (bound (cap 8) [] answers).inbox = []) ∧
    { s with inner := some (.func (.feed [])) }.inner = some (.func (.feed [])) ∧
    ({ s with inner := some .scanPass }.inner = some .scanPass ∧ s.buf = some (Memory.ofWindow [])) ∧
    { s with inner := some .scanPass, buf := none }.buf = none := by decide

/-- For PlacedWordIsRun: the last command code, and a step of a placed one that completes. -/
theorem witness_PlacedWordIsRun :
    0xF < 16 ∧ 0x5 < 16 ∧ nextIs (step (State.reset.withFetchWord 8 0x5)) (fun s => decide (s.trace = [.resp .transportClose .done])) := by
  decide

/-- For EveryInstructionKeepsTheLifecycle, EveryInstructionKeepsTheWindowInBounds and EveryInjectedFrameIsLegal: a Bound block, and an
instruction that completes in it. -/
theorem witness_Invariants :
    let s := bound (cap 16) [0xAA, 0x00] answers
    s.lifecycle ∧ s.bounded ∧ s.framesLegal ∧
    exec (.rxChunk [0x01, 0x00]) s = .next (after (exec (.rxChunk [0x01, 0x00]) s) State.reset) :=
  ⟨bound_inv.lifecycle, bound_inv.bounded, bound_inv.framesLegal, rfl⟩

/-- For EveryStepKeepsTheInvariant, LawfulCommandsComplete and AtMostElevenBytesWait: a Bound block with a command waiting. -/
theorem witness_Steps :
    let s : State := { bound (cap 16) [0xAA, 0x00] answers with inbox := [req 0x3 args] }
    s.Inv ∧ s.inbox = req 0x3 args :: [] ∧ (req 0x3 args).input.breach = none ∧ 0x1 ≤ (req 0x3 args).op ∧ (req 0x3 args).op ≤ 0x6 ∧
    ((req 0x3 args).op = 0x3 → (req 0x3 args).args.chunk.length ≤ s.params.capacity) ∧
    ((req 0x3 args).op = 0x4 → s.bstate = .bound → (req 0x3 args).args.tf.length.toNat ≤ 8 → s.params.encodeIdMode = .refuse →
      (req 0x3 args).args.tf.id ≤ 0x7FF) ∧ s.pending = some 2 ∧
    step s = .next (after (step s) State.reset) := by
  refine ⟨⟨rfl, rfl, ⟨rfl, rfl⟩, bound_inv.bounded, bound_inv.stable, bound_inv.framesLegal⟩, rfl, rfl, ?_, ?_, ?_, ?_, ?_, rfl⟩ <;> decide

/-- For LawfulCommandsComplete: the bounds of its premises, under REFUSE and with a chunk of MAX_CHUNK bytes. -/
theorem witness_LawfulCommandsComplete :
    let r : Request := ⟨0x4, { args with tf := ⟨0x7FF, 8, lanes18⟩ }, answers⟩
    0x1 ≤ r.op ∧ r.op ≤ 0x6 ∧ r.args.tf.id ≤ 0x7FF ∧ r.input.breach = none ∧
    ([0, 0, 0, 0, 0, 0, 0, 0] : List Byte).length ≤ (cap 8).capacity := by decide

/-- For AtMostElevenBytesWait: the bound is met, by a header with L = 8 and seven of its payload bytes. -/
theorem witness_AtMostElevenBytesWait :
    let s := bound (cap 16) [0xAA, 0x00, 0x01, 0x08, 1, 2, 3, 4, 5, 6, 7] answers
    s.stable ∧ s.pending = some 11 := by
  refine ⟨?_, ?_⟩
  · intro m h; cases h; decide
  · decide

end Sys2Proof.Tests
end

/-! SUPPORT. DECODE's INCOMPLETE verdict, the stable windows (R38, R82). -/

namespace Sys2Proof.Machine

/-- A window is too short for a header, or begins with four header bytes (R76). -/
theorem short_or_header (w : List Byte) :
    w.length < HDR ∨ ∃ b0 b1 b2 b3 rest, w = b0 :: b1 :: b2 :: b3 :: rest := by
  match w with
  | [] => exact .inl (by decide)
  | [_] => exact .inl (by simp [HDR])
  | [_, _] => exact .inl (by simp [HDR])
  | [_, _, _] => exact .inl (by simp [HDR])
  | b0 :: b1 :: b2 :: b3 :: rest => exact .inr ⟨b0, b1, b2, b3, rest, rfl⟩

/-- After the Sync byte a legal length with too few payload bytes is what waits (R82). -/
theorem decodeBody_eq_incomplete_iff (b1 b2 b3 : Byte) (rest : List Byte) :
    decodeBody b1 b2 b3 rest = .incomplete ↔ b3.toNat ≤ MAXLEN ∧ rest.length < b3.toNat := by
  unfold decodeBody
  split
  · simp; omega
  · split <;> simp <;> omega

/-- With a whole header at hand, both orders wait for the same windows: the beginnings of legal frames. -/
theorem decodeFront_header_eq_incomplete_iff (order : DecodeOrder) (b0 b1 b2 b3 : Byte) (rest : List Byte) :
    decodeFront order (b0 :: b1 :: b2 :: b3 :: rest) = .incomplete ↔
      b0 = SYNC ∧ b3.toNat ≤ MAXLEN ∧ rest.length < b3.toNat := by
  by_cases h : b0 = SYNC
  · subst h
    rw [decodeFront_sync, decodeBody_eq_incomplete_iff]
    simp
  · simp [decodeFront_nosync order h, h]

/-- INCOMPLETE_FIRST waits for every window that is too short for a header. -/
theorem decodeFront_incompleteFirst_short {w : List Byte} (h : w.length < HDR) :
    decodeFront .incompleteFirst w = .incomplete := by
  match w with
  | [] => rfl
  | [_] => rfl
  | [_, _] => rfl
  | [_, _, _] => rfl
  | _ :: _ :: _ :: _ :: rest => exact absurd h (by simp [HDR])

/-- RESYNC_FIRST waits for a short window only when it is empty or begins with SYNC. -/
theorem decodeFront_resyncFirst_short_eq_incomplete_iff {w : List Byte} (h : w.length < HDR) :
    decodeFront .resyncFirst w = .incomplete ↔ w = [] ∨ w[0]? = some SYNC := by
  match w with
  | [] => simp [decodeFront]
  | [b0] => by_cases h0 : b0 = SYNC <;> simp [decodeFront, h0]
  | [b0, _] => by_cases h0 : b0 = SYNC <;> simp [decodeFront, h0]
  | [b0, _, _] => by_cases h0 : b0 = SYNC <;> simp [decodeFront, h0]
  | _ :: _ :: _ :: _ :: rest => exact absurd h (by simp [HDR])

/-- A window of 4 bytes or more is stable when it is the beginning of a legal frame, under both orders (R38). -/
theorem decodeAt_eq_incomplete_iff_of_header (order : DecodeOrder) {w : List Byte} (h : ¬ w.length < HDR) :
    decodeAt order w 0 = .incomplete ↔
      w[0]? = some SYNC ∧ ∃ b3, w[3]? = some b3 ∧ b3.toNat ≤ MAXLEN ∧ w.length < HDR + b3.toNat := by
  obtain hs | ⟨b0, b1, b2, b3, rest, rfl⟩ := short_or_header w
  · exact absurd hs h
  · have hlen : (b0 :: b1 :: b2 :: b3 :: rest).length < HDR + b3.toNat ↔ rest.length < b3.toNat := by
      simp only [List.length_cons, HDR]
      omega
    rw [decodeAt, List.drop_zero, decodeFront_header_eq_incomplete_iff, ← hlen]
    simp

/-- A stable window has at most 11 bytes: a header with L = 8 and all but one of its payload bytes (R38). -/
theorem length_le_of_decodeAt_incomplete {order : DecodeOrder} {w : List Byte} (h : decodeAt order w 0 = .incomplete) :
    w.length ≤ 11 := by
  by_cases hs : w.length < HDR
  · simp only [HDR] at hs
    omega
  · obtain ⟨-, b3, -, h8, hw⟩ := (decodeAt_eq_incomplete_iff_of_header order hs).mp h
    simp only [MAXLEN, HDR] at h8 hw
    omega

/-- Settles O24: a short window and a whole header are the two cases of each equivalence. -/
theorem stableWindowsByOrder : Obligations.StableWindowsByOrder := by
  intro w
  refine ⟨?_, ?_, fun order => length_le_of_decodeAt_incomplete⟩
  · by_cases hs : w.length < 4
    · simp [decodeAt, decodeFront_incompleteFirst_short hs, hs]
    · rw [decodeAt_eq_incomplete_iff_of_header _ hs, or_iff_right hs]
      rfl
  · by_cases hs : w.length < 4
    · have h3 : w[3]? = none := List.getElem?_eq_none (by omega)
      simp [decodeAt, decodeFront_resyncFirst_short_eq_incomplete_iff hs, hs, h3, SYNC]
    · have hne : w ≠ [] := fun h => hs (by simp [h])
      rw [decodeAt_eq_incomplete_iff_of_header _ hs, or_iff_right hne, or_iff_right fun h => hs h.2]
      rfl

/-- Settles O59: the window of a state that meets the invariant is stable. -/
theorem atMostElevenBytesWait : Obligations.AtMostElevenBytesWait := by
  intro s n hinv hn
  obtain ⟨m, hm, rfl⟩ := Option.map_eq_some_iff.mp hn
  rw [pending_eq]
  exact length_le_of_decodeAt_incomplete (hinv.stable m hm)

end Sys2Proof.Machine

/-! SUPPORT. The scan as a recursion without a bound on its passes (R89 to R92), and what follows by induction over its passes. -/

namespace Sys2Proof.Machine

/-- A RESYNC verdict is about a window with a byte to drop. -/
theorem length_pos_of_decodeAt_resync {order : DecodeOrder} {w : List Byte} (h : decodeAt order w 0 = .resync) :
    0 < w.length := by
  rcases w with - | ⟨b, t⟩
  · exact absurd ((decodeFront_nil order).symm.trans h) nofun
  · simp

/-- A FRAME verdict yields a Frame and consumes its header and payload, all within the window. -/
theorem decodeAt_frame_bounds {order : DecodeOrder} {w : List Byte} {f : Frame} {k : Nat}
    (h : decodeAt order w 0 = .frame f k) : f.wf ∧ k = 4 + f.length.toNat ∧ k ≤ w.length :=
  decodeFront_frame_bounds h

/-- Induction over the passes of the scan: each RESYNC and each FRAME leaves a shorter window (R92). -/
theorem scan_induction (order : DecodeOrder) {P : List Byte → Prop}
    (resync : ∀ w, decodeAt order w 0 = .resync → P (w.drop 1) → P w)
    (incomplete : ∀ w, decodeAt order w 0 = .incomplete → P w)
    (frame : ∀ w f k, decodeAt order w 0 = .frame f k → P (w.drop k) → P w) (w : List Byte) : P w := by
  induction hn : w.length using Nat.strong_induction_on generalizing w with
  | _ n ih =>
    cases h : decodeAt order w 0 with
    | resync =>
      have := length_pos_of_decodeAt_resync h
      exact resync w h (ih _ (by rw [List.length_drop]; omega) _ rfl)
    | incomplete => exact incomplete w h
    | frame f k =>
      obtain ⟨-, hk, hkw⟩ := decodeAt_frame_bounds h
      exact frame w f k h (ih _ (by rw [List.length_drop]; omega) _ rfl)

/-- A bound of at least the window's length is never reached (R92, log 20). -/
theorem scanLoop_eq_scan {order : DecodeOrder} {n : Nat} {w : List Byte} (h : w.length ≤ n) :
    scanLoop order n w = scan order w := by
  suffices H : ∀ a b, w.length ≤ a → w.length ≤ b → scanLoop order a w = scanLoop order b w from H _ _ h le_rfl
  clear h n
  induction w using scan_induction order with
  | resync w hd ih =>
    have hpos := length_pos_of_decodeAt_resync hd
    intro a b ha hb
    obtain ⟨a, rfl⟩ : ∃ a', a = a' + 1 := ⟨a - 1, by omega⟩
    obtain ⟨b, rfl⟩ : ∃ b', b = b' + 1 := ⟨b - 1, by omega⟩
    rw [scanLoop_resync hd, scanLoop_resync hd]
    exact ih a b (by rw [List.length_drop]; omega) (by rw [List.length_drop]; omega)
  | incomplete w hd =>
    have exits : ∀ a, scanLoop order a w = ⟨[], w⟩ := fun a => by
      cases a with
      | zero => rfl
      | succ a => exact scanLoop_incomplete hd
    intro a b _ _
    rw [exits, exits]
  | frame w f k hd ih =>
    obtain ⟨-, hk, hkw⟩ := decodeAt_frame_bounds hd
    intro a b ha hb
    obtain ⟨a, rfl⟩ : ∃ a', a = a' + 1 := ⟨a - 1, by omega⟩
    obtain ⟨b, rfl⟩ : ∃ b', b = b' + 1 := ⟨b - 1, by omega⟩
    rw [scanLoop_frame hd, scanLoop_frame hd,
      ih a b (by rw [List.length_drop]; omega) (by rw [List.length_drop]; omega)]

theorem scan_resync {order : DecodeOrder} {w : List Byte} (h : decodeAt order w 0 = .resync) :
    scan order w = scan order (w.drop 1) := by
  rw [← scanLoop_eq_scan (Nat.le_succ w.length), scanLoop_resync h, scanLoop_eq_scan (by rw [List.length_drop]; omega)]

theorem scan_incomplete {order : DecodeOrder} {w : List Byte} (h : decodeAt order w 0 = .incomplete) :
    scan order w = ⟨[], w⟩ := by
  rw [← scanLoop_eq_scan (Nat.le_succ w.length), scanLoop_incomplete h]

theorem scan_frame {order : DecodeOrder} {w : List Byte} {f : Frame} {k : Nat} (h : decodeAt order w 0 = .frame f k) :
    scan order w = ⟨f :: (scan order (w.drop k)).frames, (scan order (w.drop k)).rest⟩ := by
  rw [← scanLoop_eq_scan (Nat.le_succ w.length), scanLoop_frame h, scanLoop_eq_scan (by rw [List.length_drop]; omega)]

/-- The window the scan retains is stable (R94). -/
theorem decodeAt_scan_rest (order : DecodeOrder) (w : List Byte) :
    decodeAt order (scan order w).rest 0 = .incomplete := by
  induction w using scan_induction order with
  | resync w hd ih => rwa [scan_resync hd]
  | incomplete w hd => rwa [scan_incomplete hd]
  | frame w f k hd ih => rwa [scan_frame hd]

/-- The window the scan retains is the end of the one scanned (R37 (c)). -/
theorem scan_rest_suffix (order : DecodeOrder) (w : List Byte) : (scan order w).rest <:+ w := by
  induction w using scan_induction order with
  | resync w hd ih => rw [scan_resync hd]; exact ih.trans (List.drop_suffix 1 w)
  | incomplete w hd => rw [scan_incomplete hd]
  | frame w f k hd ih => rw [scan_frame hd]; exact ih.trans (List.drop_suffix k w)

/-- Each frame the scan yields is a Frame whose wire bytes lie within the window scanned (R32, R97). -/
theorem scan_frames_fit {order : DecodeOrder} {w : List Byte} {f : Frame} (hf : f ∈ (scan order w).frames) :
    f.wf ∧ 4 + f.length.toNat ≤ w.length := by
  induction w using scan_induction order with
  | resync w hd ih =>
    rw [scan_resync hd] at hf
    obtain ⟨hwf, hle⟩ := ih hf
    exact ⟨hwf, hle.trans (by simp)⟩
  | incomplete w hd =>
    rw [scan_incomplete hd] at hf
    exact absurd hf List.not_mem_nil
  | frame w g k hd ih =>
    rw [scan_frame hd] at hf
    rcases List.mem_cons.mp hf with rfl | hf
    · obtain ⟨hwf, hk, hkw⟩ := decodeAt_frame_bounds hd
      exact ⟨hwf, hk ▸ hkw⟩
    · obtain ⟨hwf, hle⟩ := ih hf
      exact ⟨hwf, hle.trans (by simp)⟩

/-- FEED completes only on an admissible chunk and an existing BUF, with `feed`'s state and its frames handed back (R85, R86). -/
theorem execFeed_eq_next {chunk : List Byte} {s t : State} (h : execFeed chunk s = .next t) :
    chunk.length ≤ s.params.capacity ∧ ∃ m, s.buf = some m ∧
      t = { (feed chunk m s).2 with ret := some (.frames (feed chunk m s).1) } := by
  unfold execFeed at h
  split at h
  · cases h
  · rename_i hc
    split at h
    · cases h
    · rename_i m hm
      cases h
      exact ⟨Nat.le_of_not_lt hc, m, hm, rfl⟩

/-- Each frame FEED of an admissible chunk yields is a Frame and fits the buffer (R97). -/
theorem feed_frames_fit {chunk : List Byte} {m : Memory} {s : State} {f : Frame} (hc : chunk.length ≤ s.params.capacity)
    (hf : f ∈ (feed chunk m s).1) : f.wf ∧ 4 + f.length.toNat ≤ s.params.capacity := by
  obtain ⟨hwf, hle⟩ := scan_frames_fit hf
  rw [← pending_eq] at hle
  exact ⟨hwf, hle.trans (pending_accept_le hc)⟩

/-- Settles O28: FEED hands back the frames of the scan, whose window is at most CAPACITY long. -/
theorem yieldedFramesFitTheBuffer : Obligations.YieldedFramesFitTheBuffer := by
  intro s t chunk fs h hret f hf
  obtain ⟨hc, m, -, rfl⟩ := execFeed_eq_next h
  cases hret
  exact feed_frames_fit hc hf

end Sys2Proof.Machine

/-! SUPPORT. What a completed instruction can do to the block, said once for all 24 rows (`Effect`, `exec_effect`). -/

namespace Sys2Proof.Machine

/-- What a completed instruction can do to BUF: nothing, a scan of a window that fits (RX_CHUNK, FEED), or one pass of the scan,
which is a header row's alone. -/
inductive BufStep (i : Instr) (p : Params) : Option Memory → Option Memory → Prop where
  | same (b : Option Memory) : BufStep i p b b
  | scans (m : Memory) (w : List Byte) (fits : w.length ≤ p.capacity) :
      BufStep i p (some m) (some (Memory.ofWindow (scan p.decodeOrder w).rest))
  | passes (m : Memory) (r : DecodeResult) (row : i.format = .wireHdr32) : BufStep i p (some m) (some (passBuf r m))

/-- The elements of the block that stand and fall with the binding (R37 (a)). -/
structure Binding where
  bstate : BState
  buf : Option Memory
  hnd : Option Handles

/-- The binding of a state. -/
def State.binding (s : State) : Binding := ⟨s.bstate, s.buf, s.hnd⟩

/-- What a completed instruction can do to the binding: create it, tear it down, or keep BSTATE and HND. -/
inductive BindingStep (i : Instr) (p : Params) (x y : Binding) : Prop where
  | binds (hd : Handles) (hx : x.bstate = .unbound) (hy : y = ⟨.bound, some Memory.empty, some hd⟩)
  | unbinds (hx : x.bstate = .bound) (hy : y = ⟨.unbound, none, none⟩)
  | keeps (bstate : y.bstate = x.bstate) (hnd : y.hnd = x.hnd) (buf : BufStep i p x.buf y.buf)

/-- R32 for the INJECT entries of a list of entries; `State.framesLegal` is this of TRACE. -/
def FramesLegal (d : List TraceEntry) : Prop := ∀ ep f r, TraceEntry.inject ep f r ∈ d → f.wf

/-- What a completed instruction can do to the block: entries with legal frames at the end of TRACE and a step of the binding. -/
structure Effect (i : Instr) (s t : State) : Prop where
  params : t.params = s.params
  lock : t.lock = s.lock
  inner : t.inner = s.inner
  inbox : t.inbox = s.inbox
  trace : ∃ d, t.trace = s.trace ++ d ∧ FramesLegal d
  binding : BindingStep i s.params s.binding t.binding

theorem FramesLegal.append {d e : List TraceEntry} (hd : FramesLegal d) (he : FramesLegal e) : FramesLegal (d ++ e) :=
  fun ep f r h => (List.mem_append.mp h).elim (hd ep f r) (he ep f r)

/-- Entries without an INJECT are legal. -/
theorem framesLegal_of_no_inject {d : List TraceEntry} (h : ∀ ep f r, TraceEntry.inject ep f r ∉ d) : FramesLegal d :=
  fun ep f r hm => absurd hm (h ep f r)

theorem framesLegal_nil : FramesLegal [] := framesLegal_of_no_inject (by simp)

theorem Effect.refl (i : Instr) (s : State) : Effect i s s :=
  ⟨rfl, rfl, rfl, rfl, ⟨[], by simp, framesLegal_nil⟩, .keeps rfl rfl (.same _)⟩

/-- More legal entries after an effect, new inputs and a result handed back, are an effect. -/
theorem Effect.log {i : Instr} {s t : State} (e : Effect i s t) (input : Input) (ret : Option FuncResult) {d : List TraceEntry}
    (hd : FramesLegal d) : Effect i s { t with input := input, ret := ret, trace := t.trace ++ d } := by
  obtain ⟨d0, htrace, hd0⟩ := e.trace
  exact ⟨e.params, e.lock, e.inner, e.inbox, ⟨d0 ++ d, by simp [htrace], hd0.append hd⟩, e.binding⟩

/-- An entry that is not an INJECT, after an effect. -/
theorem Effect.emit {i : Instr} {s t : State} (e : Effect i s t) {x : TraceEntry} (hx : FramesLegal [x]) :
    Effect i s (t.emit x) := e.log t.input t.ret hx

/-- A result handed back, after an effect. -/
theorem Effect.result {i : Instr} {s t : State} (e : Effect i s t) (r : Option FuncResult) : Effect i s { t with ret := r } :=
  ⟨e.params, e.lock, e.inner, e.inbox, e.trace, e.binding⟩

/-! ## Each operation's effect -/

/-- A command has its body's effect, or none while another agent holds LOCK. -/
theorem withLock_effect {i : Instr} {body : State → Out} {s t : State}
    (hbody : ∀ u, body { s with lock := .held s.input.agent } = .next u → Effect i { s with lock := .held s.input.agent } u)
    (h : withLock body s = .next t) : Effect i s t := by
  rcases withLock_eq_next h with ⟨hfree, u, hu, rfl⟩ | ⟨_, _, _, rfl⟩
  · have e := hbody u hu
    exact ⟨e.params, hfree.symm, e.inner, e.inbox, e.trace, e.binding⟩
  · exact .refl i t

theorem bindBody_effect {i : Instr} {n : EndpointName} {tr : TransportId} {c : LinkCfg} {s t : State}
    (h : bindBody n tr c s = .next t) : Effect i s t := by
  rcases bindBody_eq_next h with ⟨-, rfl⟩ | ⟨-, b, d, hd, r, -, rfl⟩ | ⟨hb, ep, tp, b, -, -, rfl⟩
  · exact (Effect.refl i s).emit (framesLegal_of_no_inject (by simp))
  · have hnone : FramesLegal (d ++ [.resp .bind (.bind r)]) := by
      refine .append (framesLegal_of_no_inject fun ep f a hm => ?_) (framesLegal_of_no_inject (by simp))
      rcases hd _ hm with ⟨_, h⟩ | ⟨_, h⟩ <;> cases h
    rw [List.append_assoc]
    exact (Effect.refl i s).log _ _ hnone
  · exact ⟨rfl, rfl, rfl, rfl, ⟨_, rfl, framesLegal_of_no_inject (by simp)⟩, .binds _ hb rfl⟩

theorem tearDown_effect {i : Instr} {op : Command} {s t : State} (h : tearDown op s = .next t) : Effect i s t := by
  rcases tearDown_eq_next h with ⟨-, rfl⟩ | ⟨hb, hd, b, -, rfl⟩
  · exact (Effect.refl i s).emit (framesLegal_of_no_inject (by simp))
  · exact ⟨rfl, rfl, rfl, rfl, ⟨_, rfl, framesLegal_of_no_inject (by simp)⟩, .unbinds hb rfl⟩

/-- FEED retains what a scan of a window that fits leaves, and logs at most an overflow. -/
theorem feed_effect {i : Instr} {chunk : List Byte} {m : Memory} {s : State} (hc : chunk.length ≤ s.params.capacity)
    (hm : s.buf = some m) : Effect i s (feed chunk m s).2 := by
  have hfits : (accept s.params.capacity m chunk).window.length ≤ s.params.capacity :=
    pending_eq _ ▸ pending_accept_le hc
  have hbuf := hm ▸ BufStep.scans (i := i) m _ hfits
  rw [feed_state]
  refine ⟨rfl, rfl, rfl, rfl, ?_, .keeps rfl rfl hbuf⟩
  by_cases ho : s.params.capacity < m.pending + chunk.length
  · exact ⟨[.evt 0x01 (.loss m.pending chunk.length)], by simp [ho], framesLegal_of_no_inject (by simp)⟩
  · exact ⟨[], by simp [ho], framesLegal_nil⟩

/-- RX_CHUNK injects frames of FEED's alone. -/
theorem rxBody_effect {i : Instr} {chunk : List Byte} {s t : State} (hc : chunk.length ≤ s.params.capacity)
    (h : rxBody chunk s = .next t) : Effect i s t := by
  rcases rxBody_eq_next h with ⟨-, rfl⟩ | ⟨-, m, hd, u, hm, -, hu, rfl⟩
  · exact (Effect.refl i s).log _ _ (framesLegal_of_no_inject (by simp))
  · obtain ⟨b, d, rfl, hd⟩ := injectAll_eq_next hu
    have hlegal : FramesLegal d := by
      intro ep f r hmem
      rcases hd _ hmem with ⟨g, _, hg, heq⟩ | ⟨_, _, heq⟩
      · cases heq
        exact (feed_frames_fit hc hg).1
      · cases heq
    exact ((feed_effect hc hm).log _ _ hlegal).emit (framesLegal_of_no_inject (by simp))

theorem txBody_effect {i : Instr} {tf : TxFrame} {k : Token} {s t : State} (h : txBody tf k s = .next t) : Effect i s t := by
  obtain ⟨b, d, o, rfl, hd⟩ := txBody_eq_next h
  have hlegal : FramesLegal d := framesLegal_of_no_inject fun ep f r hm => by
    rcases hd with ⟨-, rfl, -⟩ | ⟨-, rfl, -⟩ | ⟨-, tp, bs, ⟨rfl, -⟩ | ⟨rfl, -⟩⟩ <;> simp at hm
  rw [List.append_assoc]
  exact (Effect.refl i s).log _ _ (hlegal.append (framesLegal_of_no_inject (by simp)))

theorem scanPass_effect {i : Instr} {v : List Byte → DecodeResult} {s t : State} (hi : i.format = .wireHdr32)
    (h : scanPass v s = .next t) : Effect i s t := by
  unfold scanPass at h
  split at h
  · cases h
  · rename_i m hm
    cases h
    have hbuf : BufStep i s.params s.buf (some (passBuf (v m.window) m)) := hm ▸ .passes m _ hi
    exact ⟨rfl, rfl, rfl, rfl, ⟨[], by simp, framesLegal_nil⟩, .keeps rfl rfl hbuf⟩

theorem execRxChunk_effect {i : Instr} {chunk : List Byte} {s t : State} (h : execRxChunk chunk s = .next t) :
    Effect i s t := by
  unfold execRxChunk at h
  split at h
  · cases h
  · rename_i hc
    exact withLock_effect (fun _ => rxBody_effect (Nat.le_of_not_lt hc)) h

theorem execFeed_effect {i : Instr} {chunk : List Byte} {s t : State} (h : execFeed chunk s = .next t) : Effect i s t := by
  obtain ⟨hc, m, hm, rfl⟩ := execFeed_eq_next h
  exact (feed_effect hc hm).result _

theorem execEncode_effect {i : Instr} {f : TxFrame} {s t : State} (h : execEncode f s = .next t) : Effect i s t := by
  unfold execEncode at h
  split at h
  · cases h
  · split at h <;> cases h
    exact (Effect.refl i s).result _

theorem execDecode_effect {i : Instr} {w : List Byte} {off : Nat} {s t : State} (h : execDecode w off s = .next t) :
    Effect i s t := by
  unfold execDecode at h
  split at h <;> cases h
  exact (Effect.refl i s).result _

/-- Every instruction that completes has an effect of the one shape. -/
theorem exec_effect {i : Instr} {s t : State} (h : exec i s = .next t) : Effect i s t := by
  cases i with
  | bind n tr c => exact withLock_effect (fun _ => bindBody_effect) h
  | unbind => exact withLock_effect (fun _ => tearDown_effect) h
  | rxChunk chunk => exact execRxChunk_effect h
  | txFrame tf token => exact withLock_effect (fun _ => txBody_effect) h
  | transportClose => exact withLock_effect (fun _ => tearDown_effect) h
  | endpointRemove => exact withLock_effect (fun _ => tearDown_effect) h
  | reserved0 => cases h
  | reserved7 => cases h
  | reserved8F low => cases h
  | encode f => exact execEncode_effect h
  | decode w off => exact execDecode_effect h
  | feed chunk => exact execFeed_effect h
  | wireShort bytes => exact scanPass_effect (v := fun _ => shortVerdict s.params.decodeOrder bytes) rfl h
  | wireNosync sync id len => exact scanPass_effect (v := fun _ => .resync) rfl h
  | wireBadlen id len => exact scanPass_effect (v := fun _ => .resync) rfl h
  | wireFrameL0 id => exact scanPass_effect rfl h
  | wireFrameL1 id => exact scanPass_effect rfl h
  | wireFrameL2 id => exact scanPass_effect rfl h
  | wireFrameL3 id => exact scanPass_effect rfl h
  | wireFrameL4 id => exact scanPass_effect rfl h
  | wireFrameL5 id => exact scanPass_effect rfl h
  | wireFrameL6 id => exact scanPass_effect rfl h
  | wireFrameL7 id => exact scanPass_effect rfl h
  | wireFrameL8 id => exact scanPass_effect rfl h

end Sys2Proof.Machine

/-! SUPPORT. What every effect keeps, and so every instruction (R31, R32, R37, R38, R50) and every step. -/

namespace Sys2Proof.Machine

theorem BufStep.isSome_eq {i : Instr} {p : Params} {a b : Option Memory} (h : BufStep i p a b) : b.isSome = a.isSome := by
  cases h <;> rfl

/-- One pass keeps the canonical form and never lengthens the window (R89, R90, R91). -/
theorem passBuf_bounded {m : Memory} (hwf : m.wf) (r : DecodeResult) :
    (passBuf r m).wf ∧ (passBuf r m).pending ≤ m.pending := by
  cases r with
  | resync => exact ⟨wf_dropFront m 1, by simp [passBuf, pending_eq]⟩
  | incomplete => exact ⟨hwf, le_rfl⟩
  | frame f k => exact ⟨wf_dropFront m k, by simp [passBuf, pending_eq]⟩

theorem BufStep.bounded {i : Instr} {p : Params} {a b : Option Memory} (h : BufStep i p a b)
    (ha : ∀ m, a = some m → m.wf ∧ m.pending ≤ p.capacity) : ∀ m, b = some m → m.wf ∧ m.pending ≤ p.capacity := by
  cases h with
  | same => exact ha
  | scans m w fits =>
    intro _ hm
    cases hm
    exact ⟨wf_ofWindow _, by rw [pending_ofWindow]; exact (scan_rest_suffix _ w).length_le.trans fits⟩
  | passes m r _ =>
    intro _ hm
    cases hm
    obtain ⟨hwf, hle⟩ := ha m rfl
    obtain ⟨hwf', hle'⟩ := passBuf_bounded hwf r
    exact ⟨hwf', hle'.trans hle⟩

/-- All but the header rows, each one pass of an unfinished scan, leave a stable window where there was one. -/
theorem BufStep.stable {i : Instr} {p : Params} {a b : Option Memory} (h : BufStep i p a b) (hi : i.format ≠ .wireHdr32)
    (ha : ∀ m, a = some m → decodeAt p.decodeOrder m.window 0 = .incomplete) :
    ∀ m, b = some m → decodeAt p.decodeOrder m.window 0 = .incomplete := by
  cases h with
  | same => exact ha
  | scans m w fits =>
    intro _ hm
    cases hm
    rw [window_ofWindow]
    exact decodeAt_scan_rest _ w
  | passes m r row => exact absurd row hi

/-- The buffer after an effect: a fresh one, none, or a step of the old one. -/
theorem Effect.buf_cases {i : Instr} {s t : State} (e : Effect i s t) :
    t.buf = some Memory.empty ∨ t.buf = none ∨ BufStep i s.params s.buf t.buf := by
  cases e.binding with
  | binds _ _ hy => exact .inl (congrArg Binding.buf hy)
  | unbinds _ hy => exact .inr (.inl (congrArg Binding.buf hy))
  | keeps _ _ hbuf => exact .inr (.inr hbuf)

theorem Effect.lifecycle {i : Instr} {s t : State} (e : Effect i s t) (h : s.lifecycle) : t.lifecycle := by
  cases e.binding with
  | binds _ _ hy =>
    obtain ⟨hb, hm, hh⟩ := Binding.mk.inj hy
    simp [State.lifecycle, hb, hm, hh]
  | unbinds _ hy =>
    obtain ⟨hb, hm, hh⟩ := Binding.mk.inj hy
    simp [State.lifecycle, hb, hm, hh]
  | keeps hb hh hbuf =>
    have hb : t.bstate = s.bstate := hb
    have hh : t.hnd = s.hnd := hh
    have hm : t.buf.isSome = s.buf.isSome := hbuf.isSome_eq
    rwa [State.lifecycle, hb, hh, hm]

theorem Effect.bounded {i : Instr} {s t : State} (e : Effect i s t) (h : s.bounded) : t.bounded := by
  unfold State.bounded
  rw [e.params]
  rcases e.buf_cases with hb | hb | hstep
  · intro m hm
    cases hb.symm.trans hm
    exact ⟨wf_empty, Nat.zero_le _⟩
  · intro m hm
    cases hb.symm.trans hm
  · exact hstep.bounded h

theorem Effect.stable {i : Instr} {s t : State} (e : Effect i s t) (hi : i.format ≠ .wireHdr32) (h : s.stable) : t.stable := by
  unfold State.stable
  rw [e.params]
  rcases e.buf_cases with hb | hb | hstep
  · intro m hm
    cases hb.symm.trans hm
    exact decodeFront_nil _
  · intro m hm
    cases hb.symm.trans hm
  · exact hstep.stable hi h

theorem Effect.framesLegal {i : Instr} {s t : State} (e : Effect i s t) (h : s.framesLegal) : t.framesLegal := by
  obtain ⟨d, htrace, hd⟩ := e.trace
  unfold State.framesLegal
  rw [htrace]
  exact FramesLegal.append h hd

/-- Every instruction but a header row keeps the invariant. -/
theorem Effect.inv {i : Instr} {s t : State} (e : Effect i s t) (hi : i.format ≠ .wireHdr32) (h : s.Inv) : t.Inv where
  idle := e.inner.trans h.idle
  free := e.lock.trans h.free
  lifecycle := e.lifecycle h.lifecycle
  bounded := e.bounded h.bounded
  stable := e.stable hi h.stable
  framesLegal := e.framesLegal h.framesLegal

/-- No command code decodes to a header row (R72, R73). -/
theorem decode_command_format (op : OpCode) (a : CmdArgs) : (decode (.command op a)).format = .cmd := by
  simp only [decode, decodeCommand]
  split_ifs <;> rfl

/-- Between commands a step changes nothing, or runs the first command of the inbox with its own inputs. -/
theorem step_eq_next_of_idle {s t : State} (hidle : s.inner = none) (h : step s = .next t) :
    t = s ∨ ∃ r rest, s.inbox = r :: rest ∧
      exec (decode (.command r.op r.args)) { s with inbox := rest, input := r.input } = .next t := by
  cases hin : s.inbox with
  | nil =>
    simp only [step, fetch, hidle, hin] at h
    cases h
    exact .inl rfl
  | cons r rest =>
    simp only [step, fetch, hidle, hin] at h
    split_ifs at h
    · cases h
      exact .inl rfl
    · exact .inr ⟨r, rest, rfl, by simpa only [hidle] using h⟩

/-- The invariant speaks neither of the inbox nor of the inputs. -/
theorem State.Inv.issue {s : State} (h : s.Inv) (inbox : List Request) (input : Input) :
    State.Inv { s with inbox := inbox, input := input } :=
  ⟨h.idle, h.free, h.lifecycle, h.bounded, h.stable, h.framesLegal⟩

/-- Settles O58: a step under the invariant is idle or runs a command, whose effect keeps each part of the invariant. -/
theorem everyStepKeepsTheInvariant : Obligations.EveryStepKeepsTheInvariant := by
  intro s t hinv h
  rcases step_eq_next_of_idle hinv.idle h with rfl | ⟨r, rest, -, hexec⟩
  · exact hinv
  · exact (exec_effect hexec).inv (by simp [decode_command_format]) (hinv.issue rest r.input)

/-- Settles O46: every effect leaves LOCK as it was before the instruction. -/
theorem lockIsReleased : Obligations.LockIsReleased := fun _ _ _ hfree h => (exec_effect h).lock.trans hfree

/-- Settles O49: an effect appends its entries to TRACE. -/
theorem traceOnlyGrows : Obligations.TraceOnlyGrows := by
  intro i s t h
  obtain ⟨d, htrace, -⟩ := (exec_effect h).trace
  exact ⟨d, htrace.symm⟩

/-- Settles O55: BUF and HND come and go with BSTATE in every step of the binding. -/
theorem everyInstructionKeepsTheLifecycle : Obligations.EveryInstructionKeepsTheLifecycle :=
  fun _ _ _ hs h => (exec_effect h).lifecycle hs

/-- Settles O56: a fresh buffer is empty, and a scan or a pass leaves a canonical end of a window that fits. -/
theorem everyInstructionKeepsTheWindowInBounds : Obligations.EveryInstructionKeepsTheWindowInBounds :=
  fun _ _ _ hs h => (exec_effect h).bounded hs

/-- Settles O57: the INJECT entries an effect appends carry frames of the scan. -/
theorem everyInjectedFrameIsLegal : Obligations.EveryInjectedFrameIsLegal :=
  fun _ _ _ hs h => (exec_effect h).framesLegal hs

end Sys2Proof.Machine

/-! SUPPORT. LOCK while it is held (R22, R53), and the payload lanes that are not read (R33). -/

namespace Sys2Proof.Machine

/-- A command asked for by LOCK's holder is stuck (R53). -/
theorem withLock_held_self {body : State → Out} {s : State} (h : s.lock = .held s.input.agent) :
    withLock body s = .fault .lockReentered := by
  simp [withLock, h]

/-- A command asked for by another agent than LOCK's holder waits (R22). -/
theorem withLock_held_other {body : State → Out} {s : State} {a : Agent} (h : s.lock = .held a) (ha : a ≠ s.input.agent) :
    withLock body s = .next s := by
  simp [withLock, h, ha]

/-- Each command is a body under LOCK; RX_CHUNK where its chunk is admissible (R17, R50, R106). -/
theorem exec_command_eq_withLock {i : Instr} {c : Command} {s : State} (hc : i.command = some c)
    (hchunk : ∀ chunk, i = .rxChunk chunk → chunk.length ≤ s.params.capacity) : ∃ body, exec i s = withLock body s := by
  cases i with
  | bind n tr cfg => exact ⟨_, rfl⟩
  | unbind => exact ⟨_, rfl⟩
  | rxChunk chunk => exact ⟨_, if_neg (Nat.not_lt.mpr (hchunk chunk rfl))⟩
  | txFrame tf token => exact ⟨_, rfl⟩
  | transportClose => exact ⟨_, rfl⟩
  | endpointRemove => exact ⟨_, rfl⟩
  | _ => cases hc

/-- Settles O44: a command does nothing before it has LOCK. -/
theorem lockKeepsCommandsApart : Obligations.LockKeepsCommandsApart := by
  intro i c s a hc hlock hchunk
  obtain ⟨body, hexec⟩ := exec_command_eq_withLock hc hchunk
  rw [hexec]
  exact ⟨fun ha => withLock_held_self (ha ▸ hlock), withLock_held_other hlock⟩

/-- Two TxFrames that agree below their length have the same lanes read. -/
theorem txPayload_congr {f g : TxFrame} (hlen : f.length = g.length)
    (hlanes : ∀ i, i < f.length.toNat → (lanesList f.lanes)[i]? = (lanesList g.lanes)[i]?) : txPayload f = txPayload g := by
  apply List.ext_getElem?
  intro i
  simp only [txPayload, ← hlen, List.getElem?_take]
  split
  · exact hlanes i ‹_›
  · rfl

/-- ENCODE reads the identifier, the length and the lanes below it, and nothing else. -/
theorem encodeFrame_congr {f g : TxFrame} (hid : f.id = g.id) (hlen : f.length = g.length) (hpay : txPayload f = txPayload g)
    (mode : EncodeIdMode) : encodeFrame mode f = encodeFrame mode g := by
  simp only [encodeFrame, hid, hlen, hpay]

/-- Where WRITE answers OK on a Bound block, TX_FRAME's body is a function of the wire bytes. -/
theorem txBody_congr {f g : TxFrame} {s : State} (k : Token) (hlen : f.length = g.length) (h8 : f.length.toNat ≤ MAXLEN)
    (henc : encodeFrame s.params.encodeIdMode f = encodeFrame s.params.encodeIdMode g) (hb : s.bstate = .bound)
    (hw : s.input.write = .ok) : txBody f k s = txBody g k s := by
  simp only [txBody, hb, hw, henc, ← hlen, if_neg (Nat.not_lt.mpr h8)]

/-- Settles O16: the lanes reach an outcome through ENCODE alone, which reads those below the length. -/
theorem unreadLanesDoNotMatter : Obligations.UnreadLanesDoNotMatter := by
  intro f g hid hlen h8 hlanes
  have henc := encodeFrame_congr hid hlen (txPayload_congr hlen hlanes)
  refine ⟨henc, fun s => ?_, fun k s hb hw => ?_⟩
  · simp only [exec, execEncode, hlen, henc]
  · have hbody : txBody f k { s with lock := .held s.input.agent } = txBody g k { s with lock := .held s.input.agent } :=
      txBody_congr k hlen h8 (henc _) hb hw
    simp only [exec, execTxFrame, withLock, hbody]

end Sys2Proof.Machine

/-! SUPPORT. BUF's bytes after Append and DropFront (R58, R59). -/

namespace Sys2Proof.Machine

theorem pending_append (m : Memory) (chunk : List Byte) : (m.append chunk).pending = m.pending + chunk.length := by
  simp [pending_eq]

theorem pending_dropFront (m : Memory) (k : Nat) : (m.dropFront k).pending = m.pending - k := by
  simp [pending_eq]

/-- Settles O6: each byte of a canonical buffer is that byte of its window, and the new window is the old one and the chunk. -/
theorem appendPutsTheChunkAfterTheWindow : Obligations.AppendPutsTheChunkAfterTheWindow := by
  intro m chunk hwf
  refine ⟨wf_append m chunk, window_append m chunk, pending_append m chunk, fun i hi => ?_, fun i => ?_⟩
  · rw [read_of_wf (wf_append m chunk), read_of_wf hwf, window_append, List.getElem?_append_left (pending_eq m ▸ hi)]
  · rw [read_of_wf (wf_append m chunk), window_append, pending_eq, List.getElem?_append_right (Nat.le_add_right _ _),
      Nat.add_sub_cancel_left]

/-- Settles O7: byte i of the new window is byte k + i of the old one. -/
theorem dropFrontShiftsTheRestToIndexZero : Obligations.DropFrontShiftsTheRestToIndexZero := by
  intro m k hwf _ _
  have hread : ∀ i, (m.dropFront k).read i = m.read (i + k) := fun i => by
    rw [read_of_wf (wf_dropFront m k), read_of_wf hwf, window_dropFront, List.getElem?_drop, Nat.add_comm]
  refine ⟨wf_dropFront m k, window_dropFront m k, pending_dropFront m k, fun i _ => hread i, fun i hi => ?_⟩
  rw [hread, read_of_wf hwf]
  exact List.getElem?_eq_none (by rw [← pending_eq]; omega)

end Sys2Proof.Machine

/-! SUPPORT. The calls of a command, counted: what a host that breaks an obligation in the n-th of them does to it (R53, R131). -/

namespace Sys2Proof.Machine

/-- `o` is what an operation answers from `s`, `broken n k` what it answers there from a host that breaks its obligation in the call
after `n` others. Where the operation completes under a lawful host with some calls, a breach in one of these is where it stops, and a
breach past them is one it never meets. -/
def CountsCalls (s : State) (o : Out) (broken : Nat → BreachKind → Out) : Prop :=
  s.lawful → ∀ t, o = .next t → t.lawful ∧ ∃ d, t.trace = s.trace ++ d ∧ ∀ n k,
    (n < d.countP TraceEntry.isCall → broken n k = .fault k.stuck) ∧
    (d.countP TraceEntry.isCall ≤ n → broken n k = .next (t.breaks (n - d.countP TraceEntry.isCall) k))

/-- An operation that stops under a lawful host has no calls to count. -/
theorem CountsCalls.of_fault {s : State} {f : Fault} {broken : Nat → BreachKind → Out} : CountsCalls s (.fault f) broken :=
  fun _ _ h => nomatch h

theorem CountsCalls.of_refused {s : State} {r : Refusal} {broken : Nat → BreachKind → Out} : CountsCalls s (.refused r) broken :=
  fun _ _ h => nomatch h

/-- Changes of the state that make no call leave the count as it is. -/
theorem CountsCalls.after {s u : State} {o : Out} {broken : Nat → BreachKind → Out} (d : List TraceEntry)
    (h : CountsCalls u o broken) (hd : d.countP TraceEntry.isCall = 0) (htrace : u.trace = s.trace ++ d)
    (hinput : u.input = s.input) : CountsCalls s o broken := by
  intro hs t ht
  obtain ⟨hlaw, e, he, hbroken⟩ := h (by rwa [State.lawful, hinput]) t ht
  refine ⟨hlaw, d ++ e, by rw [he, htrace, List.append_assoc], ?_⟩
  rwa [List.countP_append, hd, Nat.zero_add]

theorem CountsCalls.done (t : State) : CountsCalls t (.next t) fun n k => .next (t.breaks n k) := by
  intro ht u hu
  cases hu
  exact ⟨ht, [], by simp, fun n k => ⟨fun h => absurd h (Nat.not_lt_zero n), fun _ => rfl⟩⟩

/-- The calls of a sequence are those of the first operation, then those of the second. -/
theorem CountsCalls.andThen {s : State} {o : Out} {broken : Nat → BreachKind → Out} {f : State → Out}
    (ho : CountsCalls s o broken) (hf : ∀ u, CountsCalls u (f u) fun n k => f (u.breaks n k)) :
    CountsCalls s (andThen o f) fun n k => andThen (broken n k) f := by
  intro hs t ht
  obtain ⟨u, hu, ht⟩ := andThen_eq_next.mp ht
  obtain ⟨hlaw, d, hd, hfirst⟩ := ho hs u hu
  obtain ⟨hlaw, e, he, hsecond⟩ := hf u hlaw t ht
  refine ⟨hlaw, d ++ e, by rw [he, hd, List.append_assoc], fun n k => ?_⟩
  simp only [List.countP_append]
  obtain ⟨hstuck, hnext⟩ := hfirst n k
  rcases Nat.lt_or_ge n (d.countP TraceEntry.isCall) with hn | hn
  · rw [hstuck hn]
    exact ⟨fun _ => rfl, fun h => by omega⟩
  · rw [hnext hn, andThen_next, Nat.sub_add_eq]
    obtain ⟨hstuck, hnext⟩ := hsecond (n - d.countP TraceEntry.isCall) k
    exact ⟨fun h => hstuck (by omega), fun h => hnext (by omega)⟩

theorem callOut_countsCalls {e : TraceEntry} (s : State) (he : e.isCall = true) :
    CountsCalls s (callOut e s) fun n k => callOut e (s.breaks n k) := by
  intro hs t ht
  cases (callOut_lawful hs).symm.trans ht
  have hone : [e].countP TraceEntry.isCall = 1 := by simp [he]
  refine ⟨hs, [e], rfl, fun n k => ?_⟩
  rw [hone]
  cases n with
  | zero => exact ⟨fun _ => callOut_breaks_zero e s k, fun h => absurd h (by omega)⟩
  | succ n => exact ⟨fun h => absurd h (by omega), fun _ => callOut_breaks_succ e s n k⟩

theorem respond_countsCalls (op : Command) (r : Response) (s : State) :
    CountsCalls s (respond op r s) fun n k => respond op r (s.breaks n k) :=
  (CountsCalls.done (s.emit (.resp op r))).after [.resp op r] rfl rfl rfl

/-! ## Each command's calls -/

/-- A command under a free LOCK makes its body's calls. -/
theorem withLock_countsCalls {body : State → Out} {s : State} (hfree : s.lock = .free)
    (hbody : ∀ u, CountsCalls u (body u) fun n k => body (u.breaks n k)) :
    CountsCalls s (withLock body s) fun n k => withLock body (s.breaks n k) := by
  have hrun := (hbody { s with lock := .held s.input.agent }).andThen (f := release)
    fun u => (CountsCalls.done { u with lock := .free }).after [] rfl (by simp) rfl
  simp only [withLock, breaks_lock, hfree]
  exact hrun.after [] rfl (by simp) rfl

theorem tearDown_countsCalls (op : Command) (s : State) :
    CountsCalls s (tearDown op s) fun n k => tearDown op (s.breaks n k) := by
  simp only [tearDown, breaks_bstate, breaks_hnd]
  cases s.bstate with
  | unbound => exact respond_countsCalls op .done s
  | bound =>
    cases s.hnd with
    | none => exact .of_fault
    | some h =>
      have hrestore := (callOut_countsCalls (e := .restore h.origtx) { s with bstate := .unbound, hnd := some h } rfl).after (s := s) []
        rfl (by simp) rfl
      refine hrestore.andThen fun u => (callOut_countsCalls (e := .detachRx) u rfl).andThen fun v => ?_
      exact (respond_countsCalls op .done { v with buf := none, hnd := none }).after [] rfl (by simp) rfl

theorem bindBody_countsCalls (name : EndpointName) (transport : TransportId) (cfg : LinkCfg) (s : State) :
    CountsCalls s (bindBody name transport cfg s) fun n k => bindBody name transport cfg (s.breaks n k) := by
  simp only [bindBody, breaks_bstate, breaks_input]
  cases s.bstate with
  | bound => exact respond_countsCalls _ _ s
  | unbound =>
    refine (callOut_countsCalls s rfl).andThen fun u => ?_
    simp only [breaks_input]
    cases u.input.resolve with
    | notFound => exact respond_countsCalls _ _ u
    | handle ep =>
      refine (callOut_countsCalls u rfl).andThen fun v => ?_
      simp only [breaks_input]
      cases v.input.opened with
      | unavailable => exact respond_countsCalls _ _ v
      | handle tp =>
        refine (callOut_countsCalls v rfl).andThen fun w => (callOut_countsCalls w rfl).andThen fun x =>
          (callOut_countsCalls x rfl).andThen fun y => ?_
        exact (respond_countsCalls _ _ { y with hnd := some ⟨tp, ep, y.input.origtx⟩, buf := some Memory.empty,
                                                bstate := .bound }).after [] rfl (by simp) rfl

theorem injectAll_countsCalls (ep : Handle) (j : Nat) (fs : List Frame) (s : State) :
    CountsCalls s (injectAll ep j fs s) fun n k => injectAll ep j fs (s.breaks n k) := by
  induction fs generalizing j s with
  | nil => exact .done s
  | cons f fs ih =>
    have hanswer : ∀ n k, injectAnswer (s.breaks n k).input j = injectAnswer s.input j := fun _ _ => rfl
    simp only [injectAll, hanswer]
    refine (callOut_countsCalls s rfl).andThen fun u => ?_
    cases injectAnswer s.input j with
    | ok => exact ih (j + 1) u
    | fail => exact (ih (j + 1) (u.raise (.injectFail f))).after [.evt 0x02 (.frame f)] rfl rfl rfl

/-- FEED does not read the host's count. -/
theorem feed_breaks (chunk : List Byte) (m : Memory) (s : State) (n : Nat) (k : BreachKind) :
    feed chunk m (s.breaks n k) = ((feed chunk m s).1, (feed chunk m s).2.breaks n k) := by
  refine Prod.ext rfl ?_
  rw [feed_state, feed_state]
  rfl

theorem rxBody_countsCalls (chunk : List Byte) (s : State) :
    CountsCalls s (rxBody chunk s) fun n k => rxBody chunk (s.breaks n k) := by
  simp only [rxBody, breaks_bstate, breaks_buf, breaks_hnd, feed_breaks]
  cases s.bstate with
  | unbound =>
    exact (respond_countsCalls _ _ (s.raise (.rxWhileUnbound chunk.length))).after [.evt 0x05 (.chunkLen chunk.length)] rfl rfl rfl
  | bound =>
    cases s.buf with
    | none => exact .of_fault
    | some m =>
      cases s.hnd with
      | none => exact .of_fault
      | some h =>
        have hinject := (injectAll_countsCalls h.ep 0 (feed chunk m s).1 (feed chunk m s).2).andThen
          (respond_countsCalls .rxChunk .done)
        by_cases ho : s.params.capacity < m.pending + chunk.length
        · exact hinject.after [.evt 0x01 (.loss m.pending chunk.length)] rfl (by simp [feed_state, ho]) (by simp [feed_state])
        · exact hinject.after [] rfl (by simp [feed_state, ho]) (by simp [feed_state])

theorem releaseAndRespond_countsCalls (token : Token) (o : TxOutcome) (s : State) :
    CountsCalls s (releaseAndRespond token o s) fun n k => releaseAndRespond token o (s.breaks n k) :=
  (callOut_countsCalls s rfl).andThen (respond_countsCalls .txFrame (.tx o))

theorem txBody_countsCalls (tf : TxFrame) (token : Token) (s : State) :
    CountsCalls s (txBody tf token s) fun n k => txBody tf token (s.breaks n k) := by
  simp only [txBody, breaks_bstate, breaks_params, breaks_hnd, breaks_input]
  cases s.bstate with
  | unbound =>
    exact (releaseAndRespond_countsCalls token _ (s.raise (.txWhileUnbound tf))).after [.evt 0x06 (.txFrame tf)] rfl rfl rfl
  | bound =>
    by_cases h8 : MAXLEN < tf.length.toNat
    · simp only [if_pos h8]
      exact (releaseAndRespond_countsCalls token _ (s.raise (.txMalformed tf))).after [.evt 0x04 (.txFrame tf)] rfl rfl rfl
    · simp only [if_neg h8]
      cases encodeFrame s.params.encodeIdMode tf with
      | none => exact .of_refused
      | some bytes =>
        cases s.hnd with
        | none => exact .of_fault
        | some h =>
          refine (callOut_countsCalls s rfl).andThen fun u => ?_
          cases s.input.write with
          | ok => exact releaseAndRespond_countsCalls token _ u
          | fail =>
            exact (releaseAndRespond_countsCalls token _ (u.raise (.txTransportFail tf))).after [.evt 0x03 (.txFrame tf)] rfl rfl rfl

/-- RX_CHUNK with an admissible chunk is its body under LOCK (R86, R106). -/
theorem execRxChunk_of_le {chunk : List Byte} {s : State} (h : chunk.length ≤ s.params.capacity) :
    execRxChunk chunk s = withLock (rxBody chunk) s := if_neg (Nat.not_lt.mpr h)

theorem execRxChunk_countsCalls (chunk : List Byte) {s : State} (hfree : s.lock = .free) :
    CountsCalls s (execRxChunk chunk s) fun n k => execRxChunk chunk (s.breaks n k) := by
  by_cases hc : s.params.maxChunk < chunk.length
  · rw [execRxChunk, if_pos hc]
    exact .of_refused
  · have hrun : execRxChunk chunk s = withLock (rxBody chunk) s := if_neg hc
    have hbroken : ∀ n k, execRxChunk chunk (s.breaks n k) = withLock (rxBody chunk) (s.breaks n k) := fun _ _ => if_neg hc
    simp only [hrun, hbroken]
    exact withLock_countsCalls hfree (rxBody_countsCalls chunk)

/-- Every command stops in the call in which the host breaks its obligation, and in no other place. -/
theorem exec_countsCalls {i : Instr} {c : Command} {s : State} (hc : i.command = some c) (hfree : s.lock = .free) :
    CountsCalls s (exec i s) fun n k => exec i (s.breaks n k) := by
  cases i with
  | bind name transport cfg => exact withLock_countsCalls hfree (bindBody_countsCalls name transport cfg)
  | unbind => exact withLock_countsCalls hfree (tearDown_countsCalls _)
  | rxChunk chunk => exact execRxChunk_countsCalls chunk hfree
  | txFrame tf token => exact withLock_countsCalls hfree (txBody_countsCalls tf token)
  | transportClose => exact withLock_countsCalls hfree (tearDown_countsCalls _)
  | endpointRemove => exact withLock_countsCalls hfree (tearDown_countsCalls _)
  | _ => cases hc

/-! ## R53's own cases: the first INJECT and the WRITE -/

theorem callOut_eq_fault {s : State} {k : BreachKind} (e : TraceEntry) (h : s.input.breach = some ⟨0, k⟩) :
    callOut e s = .fault k.stuck := by
  cases k <;> simp [callOut, h, BreachKind.stuck]

theorem injectAll_eq_fault {ep : Handle} {j : Nat} {fs : List Frame} {s : State} {k : BreachKind} (hfs : fs ≠ [])
    (h : s.input.breach = some ⟨0, k⟩) : injectAll ep j fs s = .fault k.stuck := by
  cases fs with
  | nil => exact absurd rfl hfs
  | cons f fs => rw [injectAll, callOut_eq_fault _ h, andThen_fault]

theorem rxBody_eq_fault {chunk : List Byte} {s : State} {m : Memory} {h : Handles} {k : BreachKind} (hb : s.bstate = .bound)
    (hm : s.buf = some m) (hh : s.hnd = some h) (hbreach : s.input.breach = some ⟨0, k⟩) (hfs : (feed chunk m s).1 ≠ []) :
    rxBody chunk s = .fault k.stuck := by
  have hcount : (feed chunk m s).2.input.breach = some ⟨0, k⟩ := by rw [feed_state]; exact hbreach
  simp only [rxBody, hb, hm, hh, injectAll_eq_fault hfs hcount, andThen_fault]

theorem txBody_eq_fault {tf : TxFrame} {token : Token} {bs : List Byte} {s : State} {h : Handles} {k : BreachKind}
    (hb : s.bstate = .bound) (hh : s.hnd = some h) (hbreach : s.input.breach = some ⟨0, k⟩) (h8 : tf.length.toNat ≤ MAXLEN)
    (henc : encodeFrame s.params.encodeIdMode tf = some bs) : txBody tf token s = .fault k.stuck := by
  simp only [txBody, hb, if_neg (Nat.not_lt.mpr h8), henc, hh, callOut_eq_fault _ hbreach, andThen_fault]

/-- Settles O45: the first INJECT and the WRITE, then every call of every command, which `CountsCalls` counts in TRACE. -/
theorem reentrantCollaboratorIsStuck : Obligations.ReentrantCollaboratorIsStuck := by
  refine ⟨fun s m h k hfree hb hm hh hbreach => ⟨fun chunk hc hfs => ?_, fun tf token bs h8 henc => ?_⟩,
    fun i c s t d n k hc hfree hlaw hexec hd => ?_⟩
  · have hfs : (feed chunk m { s with lock := .held s.input.agent }).1 ≠ [] := by rwa [feed_frames, window_accept]
    have hbody : rxBody chunk { s with lock := .held s.input.agent } = .fault k.stuck := rxBody_eq_fault hb hm hh hbreach hfs
    rw [exec, execRxChunk_of_le hc, withLock_free hfree, hbody, andThen_fault]
  · have hbody : txBody tf token { s with lock := .held s.input.agent } = .fault k.stuck := txBody_eq_fault hb hh hbreach h8 henc
    rw [exec, execTxFrame, withLock_free hfree, hbody, andThen_fault]
  · obtain ⟨-, e, he, hcount⟩ := exec_countsCalls hc hfree hlaw t hexec
    cases List.append_cancel_left (hd.symm.trans he)
    exact hcount n k

end Sys2Proof.Machine

/-! SUPPORT. A command that the spec does not refuse completes under a lawful host (R62, R120, R134). -/

namespace Sys2Proof.Machine

theorem lifecycle_exists_buf {s : State} (hl : s.lifecycle) (hb : s.bstate = .bound) : ∃ m, s.buf = some m :=
  Option.isSome_iff_exists.mp (hl.1.trans (decide_eq_true hb))

theorem lifecycle_exists_hnd {s : State} (hl : s.lifecycle) (hb : s.bstate = .bound) : ∃ h, s.hnd = some h :=
  Option.isSome_iff_exists.mp (hl.2.trans (decide_eq_true hb))

/-- ENCODE refuses an identifier above 0x7FF under REFUSE alone (R81). -/
theorem encodeFrame_completes {mode : EncodeIdMode} {f : TxFrame} (h : mode = .refuse → f.id ≤ IDMASK) :
    ∃ bs, encodeFrame mode f = some bs := by
  cases mode with
  | unmasked => exact ⟨_, rfl⟩
  | mask11 => exact ⟨_, rfl⟩
  | refuse => exact ⟨_, by rw [encodeFrame, encodeId_of_le _ (h rfl)]⟩

theorem withLock_completes {body : State → Out} {s : State} (hfree : s.lock = .free)
    (hbody : ∃ t, body { s with lock := .held s.input.agent } = .next t) : ∃ t, withLock body s = .next t := by
  obtain ⟨t, ht⟩ := hbody
  exact ⟨_, by rw [withLock_free hfree, ht, andThen_next, release]⟩

theorem injectAll_completes {ep : Handle} {j : Nat} {fs : List Frame} {s : State} (hs : s.lawful) :
    ∃ t, injectAll ep j fs s = .next t := by
  induction fs generalizing j s with
  | nil => exact ⟨s, rfl⟩
  | cons f fs ih =>
    simp only [injectAll, callOut_lawful hs, andThen_next]
    cases injectAnswer s.input j with
    | ok => exact ih hs
    | fail => exact ih hs

theorem releaseAndRespond_completes {token : Token} {o : TxOutcome} {s : State} (hs : s.lawful) :
    ∃ t, releaseAndRespond token o s = .next t :=
  ⟨_, by rw [releaseAndRespond, callOut_lawful hs, andThen_next, respond]⟩

theorem tearDown_completes {op : Command} {s : State} (hs : s.lawful) (hl : s.lifecycle) : ∃ t, tearDown op s = .next t := by
  cases hb : s.bstate with
  | unbound =>
    simp only [tearDown, hb]
    exact ⟨_, rfl⟩
  | bound =>
    obtain ⟨h, hh⟩ := lifecycle_exists_hnd hl hb
    simp only [tearDown, hb, hh, callOut_lawful, hs, emit_input, andThen_next]
    exact ⟨_, rfl⟩

theorem bindBody_completes {name : EndpointName} {transport : TransportId} {cfg : LinkCfg} {s : State} (hs : s.lawful) :
    ∃ t, bindBody name transport cfg s = .next t := by
  cases hb : s.bstate with
  | bound =>
    simp only [bindBody, hb]
    exact ⟨_, rfl⟩
  | unbound =>
    simp only [bindBody, hb, callOut_lawful, hs, emit_input, andThen_next]
    cases s.input.resolve with
    | notFound => exact ⟨_, rfl⟩
    | handle ep =>
      cases s.input.opened with
      | unavailable => exact ⟨_, rfl⟩
      | handle tp => exact ⟨_, rfl⟩

theorem rxBody_completes {chunk : List Byte} {s : State} (hs : s.lawful) (hl : s.lifecycle) :
    ∃ t, rxBody chunk s = .next t := by
  cases hb : s.bstate with
  | unbound =>
    simp only [rxBody, hb]
    exact ⟨_, rfl⟩
  | bound =>
    obtain ⟨m, hm⟩ := lifecycle_exists_buf hl hb
    obtain ⟨h, hh⟩ := lifecycle_exists_hnd hl hb
    have hfeed : (feed chunk m s).2.lawful := by rw [feed_state]; exact hs
    obtain ⟨t, ht⟩ := injectAll_completes (ep := h.ep) (j := 0) (fs := (feed chunk m s).1) hfeed
    simp only [rxBody, hb, hm, hh, ht, andThen_next]
    exact ⟨_, rfl⟩

theorem txBody_completes {tf : TxFrame} {token : Token} {s : State} (hs : s.lawful) (hl : s.lifecycle)
    (hid : s.bstate = .bound → tf.length.toNat ≤ MAXLEN → s.params.encodeIdMode = .refuse → tf.id ≤ IDMASK) :
    ∃ t, txBody tf token s = .next t := by
  cases hb : s.bstate with
  | unbound =>
    simp only [txBody, hb]
    exact releaseAndRespond_completes hs
  | bound =>
    by_cases h8 : MAXLEN < tf.length.toNat
    · simp only [txBody, hb, if_pos h8]
      exact releaseAndRespond_completes hs
    · obtain ⟨bs, hbs⟩ := encodeFrame_completes (hid hb (Nat.le_of_not_lt h8))
      obtain ⟨h, hh⟩ := lifecycle_exists_hnd hl hb
      simp only [txBody, hb, if_neg h8, hbs, hh, callOut_lawful hs, andThen_next]
      cases s.input.write with
      | ok => exact releaseAndRespond_completes hs
      | fail => exact releaseAndRespond_completes hs

/-- Every command completes in a state that may start one, an RX_CHUNK with an admissible chunk and a TX_FRAME whose identifier
is not refused. -/
theorem exec_command_completes {i : Instr} {c : Command} {s : State} (hc : i.command = some c) (hs : s.ready) (hl : s.lifecycle)
    (hchunk : ∀ chunk, i = .rxChunk chunk → chunk.length ≤ s.params.capacity)
    (hid : ∀ tf token, i = .txFrame tf token → s.bstate = .bound → tf.length.toNat ≤ MAXLEN → s.params.encodeIdMode = .refuse →
      tf.id ≤ IDMASK) : ∃ t, exec i s = .next t := by
  obtain ⟨hfree, hlaw⟩ := hs
  cases i with
  | bind name transport cfg => exact withLock_completes hfree (bindBody_completes hlaw)
  | unbind => exact withLock_completes hfree (tearDown_completes hlaw hl)
  | rxChunk chunk =>
    rw [exec, execRxChunk_of_le (hchunk chunk rfl)]
    exact withLock_completes hfree (rxBody_completes hlaw hl)
  | txFrame tf token => exact withLock_completes hfree (txBody_completes hlaw hl (hid tf token rfl))
  | transportClose => exact withLock_completes hfree (tearDown_completes hlaw hl)
  | endpointRemove => exact withLock_completes hfree (tearDown_completes hlaw hl)
  | _ => cases hc

/-- Under a free LOCK a step runs the first command of the inbox with its own inputs. -/
theorem step_eq_exec_of_free {s : State} {r : Request} {rest : List Request} (hidle : s.inner = none) (hfree : s.lock = .free)
    (hin : s.inbox = r :: rest) :
    step s = exec (decode (.command r.op r.args)) { s with inbox := rest, input := r.input } := by
  simp [step, fetch, hidle, hfree, hin, Lock.blocks]

/-- The codes of the ports decode to commands (R72). -/
theorem decode_command_eq_some {op : OpCode} (a : CmdArgs) (hlo : 0x1 ≤ op) (hhi : op ≤ 0x6) :
    ∃ c, (decode (.command op a)).command = some c := by
  have hop : ∀ op : OpCode, 0x1 ≤ op → op ≤ 0x6 → op = 0x1 ∨ op = 0x2 ∨ op = 0x3 ∨ op = 0x4 ∨ op = 0x5 ∨ op = 0x6 := by decide
  rcases hop op hlo hhi with rfl | rfl | rfl | rfl | rfl | rfl <;> exact ⟨_, rfl⟩

theorem decode_command_eq_rxChunk {op : OpCode} {a : CmdArgs} {chunk : List Byte}
    (h : decode (.command op a) = .rxChunk chunk) : op = 0x3 ∧ a.chunk = chunk := by
  simp only [decode, decodeCommand] at h
  split_ifs at h with _ _ h3
  exact ⟨h3, Instr.rxChunk.inj h⟩

theorem decode_command_eq_txFrame {op : OpCode} {a : CmdArgs} {tf : TxFrame} {token : Token}
    (h : decode (.command op a) = .txFrame tf token) : op = 0x4 ∧ a.tf = tf := by
  simp only [decode, decodeCommand] at h
  split_ifs at h with _ _ _ h4
  exact ⟨h4, (Instr.txFrame.inj h).1⟩

/-- Settles O60: the step runs the command, which completes and does not touch what is left of the inbox. -/
theorem lawfulCommandsComplete : Obligations.LawfulCommandsComplete := by
  intro s r rest hinv hin hbreach hlo hhi hchunk hid
  obtain ⟨c, hc⟩ := decode_command_eq_some r.args hlo hhi
  have hchunk : ∀ chunk, decode (.command r.op r.args) = .rxChunk chunk → chunk.length ≤ s.params.capacity := by
    intro chunk h
    obtain ⟨h3, rfl⟩ := decode_command_eq_rxChunk h
    exact hchunk h3
  have hid : ∀ tf token, decode (.command r.op r.args) = .txFrame tf token → s.bstate = .bound → tf.length.toNat ≤ MAXLEN →
      s.params.encodeIdMode = .refuse → tf.id ≤ IDMASK := by
    intro tf token h
    obtain ⟨h4, rfl⟩ := decode_command_eq_txFrame h
    exact hid h4
  obtain ⟨t, ht⟩ := exec_command_completes (s := { s with inbox := rest, input := r.input }) hc ⟨hinv.free, hbreach⟩
    hinv.lifecycle hchunk hid
  exact ⟨t, (step_eq_exec_of_free hinv.idle hinv.free hin).trans ht, (exec_effect ht).inbox⟩

end Sys2Proof.Machine

/-! SUPPORT. The decoder row by row: the command codes (R72, R73) and the header classification as a table (R66, R76). -/

namespace Sys2Proof.Machine

/-- The codes 0x8 to 0xF are one reserved row, its operand the three low bits (R73). -/
theorem decode_command_of_ge_eight {op : OpCode} (h : 0x8 ≤ op) (a : CmdArgs) :
    decode (.command op a) = .reserved8F (op.extractLsb' 0 3) := by
  have hne : ∀ k : OpCode, k ≤ 0x7 → op ≠ k := by
    rintro k hk rfl
    exact absurd (BitVec.le_trans h hk) (by decide)
  simp only [decode, decodeCommand, if_neg (hne 0x1 (by decide)), if_neg (hne 0x2 (by decide)), if_neg (hne 0x3 (by decide)),
    if_neg (hne 0x4 (by decide)), if_neg (hne 0x5 (by decide)), if_neg (hne 0x6 (by decide)), if_neg (hne 0x0 (by decide)),
    if_neg (hne 0x7 (by decide))]

/-- A header without the Sync byte is row 2. -/
theorem decodeHeader_nosync {sync : Byte} (h : sync ≠ SYNC) (id : Id16) (len : Byte) :
    decodeHeader sync id len = .wireNosync sync id len := if_pos h

/-- A header with a length above 8 is row 3. -/
theorem decodeHeader_badlen {len : Byte} (h : MAXLEN < len.toNat) (id : Id16) :
    decodeHeader SYNC id len = .wireBadlen id len := by
  have hne : ∀ k : Byte, k.toNat ≤ MAXLEN → len ≠ k := by
    rintro k hk rfl
    exact absurd hk (Nat.not_le.mpr h)
  simp only [decodeHeader, ne_eq, not_true, if_false, if_neg (hne 0 (by decide)), if_neg (hne 1 (by decide)),
    if_neg (hne 2 (by decide)), if_neg (hne 3 (by decide)), if_neg (hne 4 (by decide)), if_neg (hne 5 (by decide)),
    if_neg (hne 6 (by decide)), if_neg (hne 7 (by decide)), if_neg (hne 8 (by decide))]

/-- The nine legal lengths (R66). -/
theorem legal_length_cases {len : Byte} (h : len.toNat ≤ MAXLEN) :
    len = 0 ∨ len = 1 ∨ len = 2 ∨ len = 3 ∨ len = 4 ∨ len = 5 ∨ len = 6 ∨ len = 7 ∨ len = 8 := by
  simp only [MAXLEN] at h
  bv_omega

/-- R76 rows 2 to 5 as a table: the row of a whole header's Sync byte, ID field and Length byte. -/
inductive HeaderRow : Byte → Id16 → Byte → Instr → Prop
  | nosync {sync : Byte} (id : Id16) (len : Byte) (h : sync ≠ SYNC) : HeaderRow sync id len (.wireNosync sync id len)
  | badlen (id : Id16) {len : Byte} (h : MAXLEN < len.toNat) : HeaderRow SYNC id len (.wireBadlen id len)
  | frameL0 (id : Id16) : HeaderRow SYNC id 0 (.wireFrameL0 id)
  | frameL1 (id : Id16) : HeaderRow SYNC id 1 (.wireFrameL1 id)
  | frameL2 (id : Id16) : HeaderRow SYNC id 2 (.wireFrameL2 id)
  | frameL3 (id : Id16) : HeaderRow SYNC id 3 (.wireFrameL3 id)
  | frameL4 (id : Id16) : HeaderRow SYNC id 4 (.wireFrameL4 id)
  | frameL5 (id : Id16) : HeaderRow SYNC id 5 (.wireFrameL5 id)
  | frameL6 (id : Id16) : HeaderRow SYNC id 6 (.wireFrameL6 id)
  | frameL7 (id : Id16) : HeaderRow SYNC id 7 (.wireFrameL7 id)
  | frameL8 (id : Id16) : HeaderRow SYNC id 8 (.wireFrameL8 id)

/-- The decoder answers the table's row. -/
theorem HeaderRow.decodeHeader_eq {sync : Byte} {id : Id16} {len : Byte} {i : Instr} (h : HeaderRow sync id len i) :
    decodeHeader sync id len = i := by
  cases h with
  | nosync id len h => exact decodeHeader_nosync h id len
  | badlen id h => exact decodeHeader_badlen h id
  | _ => rfl

/-- Every header has a row in the table, the one it decodes to. -/
theorem headerRow_decodeHeader (sync : Byte) (id : Id16) (len : Byte) : HeaderRow sync id len (decodeHeader sync id len) := by
  by_cases hs : sync = SYNC
  · subst hs
    by_cases hl : MAXLEN < len.toNat
    · exact decodeHeader_badlen hl id ▸ .badlen id hl
    · rcases legal_length_cases (Nat.not_lt.mp hl) with rfl | rfl | rfl | rfl | rfl | rfl | rfl | rfl | rfl
      exacts [.frameL0 id, .frameL1 id, .frameL2 id, .frameL3 id, .frameL4 id, .frameL5 id, .frameL6 id, .frameL7 id, .frameL8 id]
  · exact decodeHeader_nosync hs id len ▸ .nosync id len hs

theorem HeaderRow.wellFormed_eq {sync : Byte} {id : Id16} {len : Byte} {i : Instr} (h : HeaderRow sync id len i) :
    wellFormed i = true := by
  cases h with
  | nosync id len h => exact decide_eq_true h
  | badlen id h => exact decide_eq_true h
  | _ => rfl

/-- A row's words are the header's bytes. -/
theorem HeaderRow.encode_eq {sync : Byte} {id : Id16} {len : Byte} {i : Instr} (h : HeaderRow sync id len i) :
    encode i = .window (headerBytes sync id len) := by
  cases h <;> rfl

/-- The bytes of a header decode to its row. -/
theorem HeaderRow.decode_encode {sync : Byte} {id : Id16} {len : Byte} {i : Instr} (h : HeaderRow sync id len i) :
    decode (encode i) = i := by
  rw [h.encode_eq]
  simpa only [decode, headerBytes, decodeWindow, idField_high_low] using h.decodeHeader_eq

/-- A window too short for a header is row 1. -/
theorem decode_window_short {w : List Byte} (h : w.length < HDR) : decode (.window w) = .wireShort w := by
  match w with
  | [] => rfl
  | [_] => rfl
  | [_, _] => rfl
  | [_, _, _] => rfl
  | _ :: _ :: _ :: _ :: rest => exact absurd h (by simp [HDR])

/-- Any other window decodes to the row of its first four bytes. -/
theorem headerRow_decode_window (b0 b1 b2 b3 : Byte) (rest : List Byte) :
    HeaderRow b0 (idField b1 b2) b3 (decode (.window (b0 :: b1 :: b2 :: b3 :: rest))) :=
  headerRow_decodeHeader b0 (idField b1 b2) b3

/-- Settles O1: the command codes and calls decode at once, RESERVED_8_F by its three low bits, a header by its row. -/
theorem decodeEncodeRoundTrip : Obligations.DecodeEncodeRoundTrip := by
  intro i hwf
  cases i with
  | reserved8F low =>
    have hlow : ∀ low : BitVec 3,
        (0x8 : OpCode) ≤ (1 : BitVec 1) ++ low ∧ ((1 : BitVec 1) ++ low : OpCode).extractLsb' 0 3 = low := by decide
    obtain ⟨hge, heq⟩ := hlow low
    exact (decode_command_of_ge_eight hge _).trans (congrArg Instr.reserved8F heq)
  | wireShort bytes => exact decode_window_short (of_decide_eq_true hwf)
  | wireNosync sync id len => exact (HeaderRow.nosync id len (of_decide_eq_true hwf)).decode_encode
  | wireBadlen id len => exact (HeaderRow.badlen id (of_decide_eq_true hwf)).decode_encode
  | wireFrameL0 id => exact (HeaderRow.frameL0 id).decode_encode
  | wireFrameL1 id => exact (HeaderRow.frameL1 id).decode_encode
  | wireFrameL2 id => exact (HeaderRow.frameL2 id).decode_encode
  | wireFrameL3 id => exact (HeaderRow.frameL3 id).decode_encode
  | wireFrameL4 id => exact (HeaderRow.frameL4 id).decode_encode
  | wireFrameL5 id => exact (HeaderRow.frameL5 id).decode_encode
  | wireFrameL6 id => exact (HeaderRow.frameL6 id).decode_encode
  | wireFrameL7 id => exact (HeaderRow.frameL7 id).decode_encode
  | wireFrameL8 id => exact (HeaderRow.frameL8 id).decode_encode
  | _ => rfl

/-- Settles O2: a short window is its own row, and a header's row has the header's bytes. -/
theorem windowDecodingKeepsHeaderBytes : Obligations.WindowDecodingKeepsHeaderBytes := by
  intro w
  obtain hs | ⟨b0, b1, b2, b3, rest, rfl⟩ := short_or_header w
  · rw [decode_window_short hs]
    exact ⟨decide_eq_true hs, congrArg Encoded.window (List.take_of_length_le (Nat.le_of_lt hs)).symm⟩
  · have hrow := headerRow_decode_window b0 b1 b2 b3 rest
    exact ⟨hrow.wellFormed_eq, by simp [hrow.encode_eq, headerBytes, idHigh_idField, idLow_idField]⟩

/-- Settles O3: each code selects its row by computation. -/
theorem commandCodesOfThePorts : Obligations.CommandCodesOfThePorts :=
  fun _ => ⟨rfl, rfl, rfl, rfl, rfl, rfl, rfl, rfl, rfl, rfl, rfl, rfl⟩

/-- Settles O5: six closed words. -/
theorem sampleWordsDecode : Obligations.SampleWordsDecode := by
  unfold Obligations.SampleWordsDecode
  decide

end Sys2Proof.Machine

/-! SUPPORT. The rows of the header classification as passes of the scan, each on DECODE's verdict (R76, R82, R89 to R91). -/

namespace Sys2Proof.Machine

/-- A pass over an existing buffer drops what its verdict says and hands the verdict back. -/
theorem scanPass_eq {s : State} {m : Memory} (hm : s.buf = some m) (v : List Byte → DecodeResult) :
    scanPass v s = .next { s with buf := some (passBuf (v m.window) m), ret := some (.decoded (v m.window)) } := by
  simp only [scanPass, hm]

/-- A pass that waits changes nothing but the verdict handed back (R90). -/
theorem scanPass_incomplete {s : State} {m : Memory} (hm : s.buf = some m) {v : List Byte → DecodeResult}
    (hv : v m.window = .incomplete) : scanPass v s = .next { s with ret := some (.decoded .incomplete) } := by
  simp only [scanPass_eq hm, hv, passBuf, ← hm]

/-- On a window too short for a header, row 1's verdict is DECODE's (R76, R82). -/
theorem shortVerdict_eq_decodeFront (order : DecodeOrder) {w : List Byte} (h : w.length < HDR) :
    shortVerdict order w = decodeFront order w := by
  cases order with
  | incompleteFirst => exact (decodeFront_incompleteFirst_short h).symm
  | resyncFirst =>
    match w with
    | [] => rfl
    | [_] => rfl
    | [_, _] => rfl
    | [_, _, _] => rfl
    | _ :: _ :: _ :: _ :: rest => exact absurd h (by simp [HDR])

/-- On its own header, the verdict of a legal length's row is DECODE's (R76, R82). -/
theorem frameVerdict_eq_decodeFront (order : DecodeOrder) (b1 b2 : Byte) {len : Byte} (h : len.toNat ≤ MAXLEN)
    (rest : List Byte) : frameVerdict len.toNat (idField b1 b2) (SYNC :: b1 :: b2 :: len :: rest) =
      decodeFront order (SYNC :: b1 :: b2 :: len :: rest) := by
  have hlen : (SYNC :: b1 :: b2 :: len :: rest).length = HDR + rest.length := Nat.add_comm rest.length HDR
  rw [decodeFront_sync, decodeBody, if_neg (Nat.not_lt.mpr h), frameVerdict, hlen]
  rfl

/-- A length above 8 is RESYNC (R82). -/
theorem decodeFront_badlen (order : DecodeOrder) (b1 b2 : Byte) {len : Byte} (h : MAXLEN < len.toNat) (rest : List Byte) :
    decodeFront order (SYNC :: b1 :: b2 :: len :: rest) = .resync := by
  rw [decodeFront_sync, decodeBody, if_pos h]

/-- The row of a header is a pass with DECODE's verdict on every window that begins with the header. -/
theorem HeaderRow.exec_eq_scanPass {b0 b1 b2 b3 : Byte} {i : Instr} (h : HeaderRow b0 (idField b1 b2) b3 i)
    (order : DecodeOrder) (rest : List Byte) (s : State) :
    ∃ v, exec i s = scanPass v s ∧ v (b0 :: b1 :: b2 :: b3 :: rest) = decodeFront order (b0 :: b1 :: b2 :: b3 :: rest) := by
  cases h with
  | nosync _ _ h => exact ⟨fun _ => .resync, rfl, (decodeFront_nosync order h b1 b2 b3 rest).symm⟩
  | badlen _ h => exact ⟨fun _ => .resync, rfl, (decodeFront_badlen order b1 b2 h rest).symm⟩
  | _ => exact ⟨_, rfl, frameVerdict_eq_decodeFront order b1 b2 (by decide) rest⟩

/-- Run on its own window, the row a window selects is a pass with DECODE's verdict. -/
theorem exec_decode_window_eq_scanPass (w : List Byte) (s : State) :
    ∃ v, exec (decode (.window w)) s = scanPass v s ∧ v w = decodeAt s.params.decodeOrder w 0 := by
  obtain hs | ⟨b0, b1, b2, b3, rest, rfl⟩ := short_or_header w
  · rw [decode_window_short hs]
    exact ⟨fun _ => shortVerdict s.params.decodeOrder w, rfl, shortVerdict_eq_decodeFront _ hs⟩
  · exact (headerRow_decode_window b0 b1 b2 b3 rest).exec_eq_scanPass s.params.decodeOrder rest s

/-- Settles O17: the selected row's pass acts on DECODE's verdict. -/
theorem theSelectedRowActsOnDecodesVerdict : Obligations.TheSelectedRowActsOnDecodesVerdict := by
  intro s m hm
  obtain ⟨v, hexec, hv⟩ := exec_decode_window_eq_scanPass m.window s
  rw [hexec, scanPass_eq hm, hv]
  rfl

/-- Row 1 waits under INCOMPLETE_FIRST, with no byte, and with SYNC first. -/
theorem shortVerdict_eq_incomplete {order : DecodeOrder} {bytes : List Byte}
    (h : order = .incompleteFirst ∨ bytes = [] ∨ bytes[0]? = some SYNC) : shortVerdict order bytes = .incomplete := by
  cases order with
  | incompleteFirst => rfl
  | resyncFirst =>
    cases bytes with
    | nil => rfl
    | cons b0 t =>
      have hsync : b0 = SYNC := by simpa using h
      exact if_neg (not_not.mpr hsync)

/-- Row 1 resyncs under RESYNC_FIRST with another first byte. -/
theorem shortVerdict_eq_resync {b0 : Byte} (h : b0 ≠ SYNC) (t : List Byte) : shortVerdict .resyncFirst (b0 :: t) = .resync :=
  if_pos h

/-- Settles O18: row 1's pass with each of its two verdicts. -/
theorem shortRowWaitsOrResyncs : Obligations.ShortRowWaitsOrResyncs := by
  intro s m bytes hm
  have hexec : exec (.wireShort bytes) s = scanPass (fun _ => shortVerdict s.params.decodeOrder bytes) s := rfl
  constructor
  · intro hwait
    exact hexec.trans (scanPass_incomplete hm (shortVerdict_eq_incomplete hwait))
  · rintro b0 t horder rfl hne
    rw [hexec, scanPass_eq hm, horder, shortVerdict_eq_resync hne]
    rfl

/-- A row that is a pass with the verdict of a legal length waits for the whole frame, then yields it (R90, R91). -/
theorem frameRowPass_of_scanPass {i : Instr} {len : Nat} {id : Id16} (hexec : ∀ s, exec i s = scanPass (frameVerdict len id) s) :
    FrameRowPass i len id := by
  intro s m hm
  rw [hexec, pending_eq]
  constructor
  · intro hshort
    exact scanPass_incomplete hm (if_pos hshort)
  · intro hwhole
    have hv : frameVerdict len id m.window = .frame (mkFrame id len ((m.window.drop HDR).take len)) (HDR + len) :=
      if_neg (Nat.not_lt.mpr hwhole)
    rw [scanPass_eq hm, hv]
    rfl

/-- Settles O20: each of the nine rows is such a pass. -/
theorem frameRowsYieldOrWait : Obligations.FrameRowsYieldOrWait := by
  intro id
  refine ⟨?_, ?_, ?_, ?_, ?_, ?_, ?_, ?_, ?_⟩ <;> exact frameRowPass_of_scanPass fun _ => rfl

end Sys2Proof.Machine

/-! SUPPORT. What a step fetches (R22, R60, R72), and the reserved codes, which never ask for LOCK (R73). -/

namespace Sys2Proof.Machine

/-- A step runs the first command of the inbox where its agent need not wait, because LOCK is not another's or is not asked for. -/
theorem step_eq_exec_of_not_waits {s : State} {r : Request} {rest : List Request} (hidle : s.inner = none)
    (hin : s.inbox = r :: rest)
    (hgo : (s.lock.blocks r.input.agent && asksLock (decode (.command r.op r.args)) s) = false) :
    step s = exec (decode (.command r.op r.args)) { s with inbox := rest, input := r.input } := by
  simp [step, fetch, hidle, hin, hgo]

/-- A command waits where it asks for a LOCK that another agent holds (R22). -/
theorem step_eq_next_of_waits {s : State} {r : Request} {rest : List Request} (hidle : s.inner = none)
    (hin : s.inbox = r :: rest)
    (hwait : (s.lock.blocks r.input.agent && asksLock (decode (.command r.op r.args)) s) = true) : step s = .next s := by
  simp only [step, fetch, hidle, hin, hwait, if_true]

/-- A reserved code decodes to an instruction that is no command and that every state refuses (R73). -/
theorem decode_reserved {op : OpCode} (h : op = 0x0 ∨ 0x7 ≤ op) (a : CmdArgs) :
    (decode (.command op a)).command = none ∧ ∀ s, exec (decode (.command op a)) s = .refused (.reservedCommand op) := by
  have hsplit : ∀ op : OpCode, 0x7 ≤ op →
      op = 0x7 ∨ 0x8 ≤ op ∧ ((1 : BitVec 1) ++ op.extractLsb' 0 3 : OpCode) = op := by decide
  rcases h with rfl | h
  · exact ⟨rfl, fun _ => rfl⟩
  · rcases hsplit op h with rfl | ⟨hge, heq⟩
    · exact ⟨rfl, fun _ => rfl⟩
    · rw [decode_command_of_ge_eight hge]
      exact ⟨rfl, fun _ => congrArg (fun op => (.refused (.reservedCommand op) : Out)) heq⟩

/-- Settles O4: a reserved code asks for no LOCK, so the step reaches the refusal whoever holds it. -/
theorem reservedCodesAreRefused : Obligations.ReservedCodesAreRefused := by
  refine ⟨fun _ => ⟨rfl, rfl, fun _ => rfl⟩, fun op a s h => (decode_reserved h a).2 s, fun s r rest hidle hin h => ?_⟩
  obtain ⟨hnone, hexec⟩ := decode_reserved h r.args
  rw [step_eq_exec_of_not_waits hidle hin (by simp [asksLock, hnone]), hexec]

/-- Settles O51: the cases of fetch. -/
theorem stepRunsTheFetchedInstruction : Obligations.StepRunsTheFetchedInstruction := by
  intro s
  refine ⟨fun r rest hidle hin hgo => ?_, fun r rest a hidle hin hlock ha hasks => ?_, fun hidle hin => ?_, fun c hc => ?_,
    fun m hscan hm => ?_, fun hscan hm => ?_⟩
  · refine step_eq_exec_of_not_waits hidle hin ?_
    rcases hgo with hlock | hlock | hasks
    · simp [hlock, Lock.blocks]
    · simp [hlock, Lock.blocks]
    · simp [hasks]
  · exact step_eq_next_of_waits hidle hin (by simp [hlock, hasks, Lock.blocks, ha])
  · simp only [step, fetch, hidle, hin]
  · simp only [step, fetch, hc]
  · simp only [step, fetch, hscan, hm]
  · simp only [step, fetch, hscan, hm]

/-- A placed header is classified at the front of its own window. -/
theorem step_placeWindow (w : List Byte) (s : State) :
    step (placeWindow w s) = exec (decode (.window w)) { placeWindow w s with inner := none } := by
  simp only [step, fetch, placeWindow, window_ofWindow]

/-- Settles O52: the placed command finds LOCK free, and the payload of zeros does not change the row of the placed header. -/
theorem placedWordIsRun : Obligations.PlacedWordIsRun := by
  intro s w
  constructor
  · intro _
    exact step_eq_exec_of_free (s := placeCommand (BitVec.ofNat 4 w) s) rfl rfl rfl
  · exact ⟨_, step_placeWindow (windowOfWord 32 w) s, congrArg some (window_ofWindow _), rfl, rfl, rfl⟩

end Sys2Proof.Machine

/-! SUPPORT. ENCODE's wire frame in each identifier mode and how each operand check ends (R65, R66, R81, R134). -/

namespace Sys2Proof.Machine

/-- The header and the payload around the identifier that is written (R66, R68, R81). -/
theorem encodeFrame_of_encodeId {mode : EncodeIdMode} {f : TxFrame} {v : Id16} (h : encodeId mode f.id = some v) :
    encodeFrame mode f = some (SYNC :: idHigh v :: idLow v :: f.length :: txPayload f) := by
  simp only [encodeFrame, h]

/-- REFUSE has no wire frame for a longer identifier (R81). -/
theorem encodeFrame_refuse {f : TxFrame} (h : IDMASK < f.id) : encodeFrame .refuse f = none := by
  simp only [encodeFrame, encodeId_refuse h]

/-- ENCODE of a legal length hands back the wire frame, where there is one, and writes no state (R81, R83). -/
theorem execEncode_of_encodeFrame {f : TxFrame} {s : State} {bs : List Byte} (h8 : f.length.toNat ≤ MAXLEN)
    (h : encodeFrame s.params.encodeIdMode f = some bs) : execEncode f s = .next { s with ret := some (.bytes bs) } := by
  simp only [execEncode, if_neg (Nat.not_lt.mpr h8), h]

/-- ENCODE of a legal length is refused where there is no wire frame (R81). -/
theorem execEncode_of_encodeFrame_none {f : TxFrame} {s : State} (h8 : f.length.toNat ≤ MAXLEN)
    (h : encodeFrame s.params.encodeIdMode f = none) : execEncode f s = .refused .encodeIdOverrange := by
  simp only [execEncode, if_neg (Nat.not_lt.mpr h8), h]

/-- TX_FRAME's body on a Bound block refuses what ENCODE refuses (R109, R134). -/
theorem txBody_of_encodeFrame_none {tf : TxFrame} {s : State} (k : Token) (hb : s.bstate = .bound)
    (h8 : tf.length.toNat ≤ MAXLEN) (h : encodeFrame s.params.encodeIdMode tf = none) :
    txBody tf k s = .refused .encodeIdOverrange := by
  simp only [txBody, hb, if_neg (Nat.not_lt.mpr h8), h]

/-- Settles O8: each mode's identifier decides the wire frame, and only REFUSE above 0x7FF has none. -/
theorem encodeGivesTheWireFrame : Obligations.EncodeGivesTheWireFrame := by
  intro s f h8 wire
  have writes : ∀ v, encodeId s.params.encodeIdMode f.id = some v →
      exec (.encode f) s = .next { s with ret := some (.bytes (wire v)) } :=
    fun v hv => execEncode_of_encodeFrame h8 (encodeFrame_of_encodeId hv)
  have short : f.id ≤ 0x7FF → exec (.encode f) s = .next { s with ret := some (.bytes (wire f.id)) } :=
    fun hid => writes f.id (encodeId_of_le _ hid)
  refine ⟨fun hm => ?unmasked, fun hm => ?mask11, fun _ => short, fun hm hid => ?refused, short⟩
  case unmasked => exact writes f.id (by rw [hm]; rfl)
  case mask11 => exact writes (f.id &&& 0x7FF) (by rw [hm]; rfl)
  case refused => exact execEncode_of_encodeFrame_none h8 (by rw [hm]; exact encodeFrame_refuse hid)

/-- Settles O10: an offset inside the window passes DECODE's operand check. -/
theorem decodeHandsBackItsVerdict : Obligations.DecodeHandsBackItsVerdict :=
  fun _ _ _ hoff => if_neg (Nat.not_lt.mpr hoff)

/-- Settles O11: the operand check is the first test of each of the two functions. -/
theorem internalFunctionsStopOutsideTheirOperands : Obligations.InternalFunctionsStopOutsideTheirOperands :=
  ⟨fun _ _ h8 => if_pos h8, fun _ _ _ hoff => if_pos hoff⟩

/-- Settles O40: under a free LOCK the body runs, and its ENCODE has no wire frame. -/
theorem refuseModeRefusesLongIdentifiers : Obligations.RefuseModeRefusesLongIdentifiers := by
  intro s tf k hfree hb hm h8 hid
  have henc : encodeFrame s.params.encodeIdMode tf = none := by rw [hm]; exact encodeFrame_refuse hid
  have hbody : txBody tf k { s with lock := .held s.input.agent } = .refused .encodeIdOverrange :=
    txBody_of_encodeFrame_none k hb h8 henc
  rw [exec, execTxFrame, withLock_free hfree, hbody, andThen_refused]

end Sys2Proof.Machine

/-! SUPPORT. DECODE's verdict for each kind of window, the two orders against each other, and DECODE after ENCODE (R82, R84). -/

namespace Sys2Proof.Machine

/-- A first byte that is not SYNC is RESYNC where DECODE looks at it: under RESYNC_FIRST, or with a whole header at hand. -/
theorem decodeFront_noise {order : DecodeOrder} {b0 : Byte} {t : List Byte}
    (h : order = .resyncFirst ∨ HDR ≤ (b0 :: t).length) (h0 : b0 ≠ SYNC) : decodeFront order (b0 :: t) = .resync := by
  obtain hs | ⟨_, b1, b2, b3, rest, hw⟩ := short_or_header (b0 :: t)
  · obtain rfl := h.resolve_right (Nat.not_le.mpr hs)
    exact if_pos h0
  · obtain ⟨rfl, rfl⟩ := List.cons.inj hw
    exact decodeFront_nosync order h0 b1 b2 b3 rest

/-- SYNC without a whole header waits under both orders. -/
theorem decodeFront_sync_short (order : DecodeOrder) {t : List Byte} (h : (SYNC :: t).length < HDR) :
    decodeFront order (SYNC :: t) = .incomplete := by
  cases order with
  | incompleteFirst => exact decodeFront_incompleteFirst_short h
  | resyncFirst => exact (decodeFront_resyncFirst_short_eq_incomplete_iff h).mpr (.inr rfl)

/-- A header of a legal length and at least its payload is FRAME. -/
theorem decodeFront_whole (order : DecodeOrder) (b1 b2 : Byte) {len : Byte} {rest : List Byte} (h8 : len.toNat ≤ MAXLEN)
    (hr : len.toNat ≤ rest.length) : decodeFront order (SYNC :: b1 :: b2 :: len :: rest) =
      .frame (mkFrame (idField b1 b2) len.toNat (rest.take len.toNat)) (HDR + len.toNat) := by
  rw [decodeFront_sync, decodeBody, if_neg (Nat.not_lt.mpr h8), if_neg (by omega)]

/-- A header and exactly its payload are FRAME whatever bytes follow. -/
theorem decodeFront_frame_append (order : DecodeOrder) (b1 b2 : Byte) {len : Byte} {p : List Byte} (h8 : len.toNat ≤ MAXLEN)
    (hp : p.length = len.toNat) (t : List Byte) : decodeFront order (SYNC :: b1 :: b2 :: len :: (p ++ t)) =
      .frame (mkFrame (idField b1 b2) len.toNat p) (HDR + len.toNat) := by
  rw [decodeFront_whole order b1 b2 h8 (by simp [hp]), List.take_left' hp]

/-- A byte at hand is the first of the window from its offset on. -/
theorem drop_eq_cons_of_getElem? {w : List Byte} {off : Nat} {b : Byte} (h : w[off]? = some b) :
    w.drop off = b :: w.drop (off + 1) := by
  rw [List.drop_eq_getElem?_toList_append, h]
  rfl

/-- Settles O9: the window from the offset on is empty, short, noise, or a header of a length that decides. -/
theorem decodeTestsInOrder : Obligations.DecodeTestsInOrder := by
  intro order w off _
  simp only [decodeAt, ← List.length_drop]
  refine ⟨fun hnil => ?nil, fun horder hshort => ?short, fun b0 hlook hb0 hne => ?noise, fun hsync hshort => ?syncShort,
    fun b1 b2 b3 hsync hb1 hb2 hb3 => ?header⟩
  case nil => rw [List.eq_nil_of_length_eq_zero hnil, decodeFront_nil]
  case short => rw [horder, decodeFront_incompleteFirst_short hshort]
  case noise =>
    rw [drop_eq_cons_of_getElem? hb0] at hlook ⊢
    exact decodeFront_noise hlook hne
  case syncShort =>
    rw [drop_eq_cons_of_getElem? hsync] at hshort ⊢
    exact decodeFront_sync_short order hshort
  case header =>
    rw [drop_eq_cons_of_getElem? hsync, drop_eq_cons_of_getElem? hb1, drop_eq_cons_of_getElem? hb2,
      drop_eq_cons_of_getElem? hb3]
    simp only [List.length_cons]
    refine ⟨fun hbad => decodeFront_badlen order b1 b2 hbad _, fun h8 hshort => ?_, fun h8 hwhole => ?_⟩
    · exact (decodeFront_header_eq_incomplete_iff order _ b1 b2 b3 _).mpr ⟨rfl, h8, by omega⟩
    · exact decodeFront_whole order b1 b2 h8 (by omega)

/-- With a whole header at hand the two orders give one verdict. -/
theorem decodeFront_header_order_irrelevant (o o' : DecodeOrder) (b0 b1 b2 b3 : Byte) (rest : List Byte) :
    decodeFront o (b0 :: b1 :: b2 :: b3 :: rest) = decodeFront o' (b0 :: b1 :: b2 :: b3 :: rest) := by
  by_cases h0 : b0 = SYNC
  · rw [h0, decodeFront_sync, decodeFront_sync]
  · rw [decodeFront_nosync o h0, decodeFront_nosync o' h0]

/-- Settles O12: short windows and whole headers are the two cases, and a short one is empty, begins with SYNC, or is noise. -/
theorem ordersDifferOnlyOnShortNoise : Obligations.OrdersDifferOnlyOnShortNoise := by
  intro w
  simp only [decodeAt, List.drop_zero]
  obtain hshort | ⟨b0, b1, b2, b3, rest, rfl⟩ := short_or_header w
  · rw [decodeFront_incompleteFirst_short hshort]
    refine ⟨fun h => ?agree, fun hpos _ hnoise => ⟨rfl, ?differ⟩⟩
    case agree =>
      refine ((decodeFront_resyncFirst_short_eq_incomplete_iff hshort).mpr ?_).symm
      obtain hnil | hlong | hsync := h
      · exact .inl (List.eq_nil_of_length_eq_zero hnil)
      · exact absurd hshort (Nat.not_lt.mpr hlong)
      · exact .inr hsync
    case differ =>
      obtain ⟨b0, t, rfl⟩ := List.exists_cons_of_length_pos hpos
      exact decodeFront_noise (.inl rfl) fun h0 => hnoise (congrArg some h0)
  · exact ⟨fun _ => decodeFront_header_order_irrelevant _ _ b0 b1 b2 b3 rest,
      fun _ h4 _ => absurd h4 (by simp)⟩

/-- DECODE gives the same 11 bits for the identifier ENCODE writes as for the one it was given, in every mode (R69, R81). -/
theorem decodeId_of_encodeId {mode : EncodeIdMode} {id v : Id16} (h : encodeId mode id = some v) : decodeId v = decodeId id := by
  cases mode with
  | unmasked => cases h; rfl
  | mask11 =>
    cases h
    rw [decodeId, BitVec.and_assoc, BitVec.and_self, decodeId]
  | refuse =>
    obtain ⟨-, h⟩ := Option.ite_none_left_eq_some.mp h
    cases h
    rfl

/-- An identifier of at most 0x7FF loses nothing to the mask (R69). -/
theorem toNat_decodeId_of_le {id : Id16} (h : id ≤ IDMASK) : (decodeId id).toNat = id.toNat := by
  have hlt : id.toNat < 2 ^ 11 := Nat.lt_succ_of_le h
  rw [decodeId, and_idmask_of_le h, BitVec.toNat_setWidth, Nat.mod_eq_of_lt hlt]

/-- A wire frame is a header with an identifier that decodes to the given one, and the payload (R66, R81). -/
theorem encodeFrame_eq_some {mode : EncodeIdMode} {f : TxFrame} {bs : List Byte} (h : encodeFrame mode f = some bs) :
    ∃ v, decodeId v = decodeId f.id ∧ bs = SYNC :: idHigh v :: idLow v :: f.length :: txPayload f := by
  cases hid : encodeId mode f.id with
  | none => simp [encodeFrame, hid] at h
  | some v => exact ⟨v, decodeId_of_encodeId hid, Option.some.inj (h.symm.trans (encodeFrame_of_encodeId hid))⟩

theorem length_txPayload {f : TxFrame} (h8 : f.length.toNat ≤ MAXLEN) : (txPayload f).length = f.length.toNat :=
  List.length_take_of_le h8

/-- Settles O13: the wire frame is a header and exactly its payload, so what follows is not read. -/
theorem decodeUndoesEncode : Obligations.DecodeUndoesEncode := by
  intro order mode f bs t h8 henc
  refine ⟨?_, toNat_decodeId_of_le⟩
  obtain ⟨v, hv, rfl⟩ := encodeFrame_eq_some henc
  refine (decodeFront_frame_append order (idHigh v) (idLow v) h8 (length_txPayload h8) t).trans ?_
  rw [idField_high_low, mkFrame, hv, BitVec.ofNat_toNat]
  rfl

/-- Settles O15: the bytes consumed are a header and exactly its payload. -/
theorem decodeReadsOnlyTheFramesBytes : Obligations.DecodeReadsOnlyTheFramesBytes := by
  intro order w f k h
  obtain ⟨-, -, hk⟩ := decodeAt_frame_bounds h
  refine ⟨hk, fun t => ?_⟩
  obtain ⟨b1, b2, b3, rest, rfl, h8, hr, rfl, rfl⟩ := decodeFront_eq_frame h
  have htake : (SYNC :: b1 :: b2 :: b3 :: rest).take (HDR + b3.toNat) = SYNC :: b1 :: b2 :: b3 :: rest.take b3.toNat := by
    rw [HDR, Nat.add_comm]
    rfl
  rw [htake]
  exact decodeFront_frame_append order b1 b2 h8 (List.length_take_of_le hr) t

end Sys2Proof.Machine

/-! SUPPORT. RESYNC's two causes, and the scan of a window that arrives in two parts (R82, R92, R96). -/

namespace Sys2Proof.Machine

/-- RESYNC: DECODE looks at a first byte that is not SYNC, or the window starts with a header of an illegal length (R82). -/
theorem decodeFront_eq_resync {order : DecodeOrder} {w : List Byte} (h : decodeFront order w = .resync) :
    (∃ b0 t, w = b0 :: t ∧ b0 ≠ SYNC ∧ (order = .resyncFirst ∨ HDR ≤ w.length)) ∨
      ∃ b1 b2 b3 rest, w = SYNC :: b1 :: b2 :: b3 :: rest ∧ MAXLEN < b3.toNat := by
  obtain hshort | ⟨b0, b1, b2, b3, rest, rfl⟩ := short_or_header w
  · cases order with
    | incompleteFirst => exact absurd ((decodeFront_incompleteFirst_short hshort).symm.trans h) nofun
    | resyncFirst =>
      cases w with
      | nil => exact absurd ((decodeFront_nil _).symm.trans h) nofun
      | cons b0 t =>
        refine .inl ⟨b0, t, rfl, ?_, .inl rfl⟩
        rintro rfl
        exact absurd ((decodeFront_sync_short _ hshort).symm.trans h) nofun
  · by_cases h0 : b0 = SYNC
    · subst h0
      refine .inr ⟨b1, b2, b3, rest, rfl, Nat.lt_of_not_le fun h8 => ?_⟩
      by_cases hwhole : b3.toNat ≤ rest.length
      · exact absurd ((decodeFront_whole order b1 b2 h8 hwhole).symm.trans h) nofun
      · have hwaits := (decodeFront_header_eq_incomplete_iff order SYNC b1 b2 b3 rest).mpr ⟨rfl, h8, Nat.lt_of_not_le hwhole⟩
        exact absurd (hwaits.symm.trans h) nofun
    · exact .inl ⟨b0, _, rfl, h0, .inr (by simp [HDR])⟩

/-- More bytes neither hide the byte that is not SYNC nor the illegal length. -/
theorem decodeAt_append_resync {order : DecodeOrder} {w : List Byte} (h : decodeAt order w 0 = .resync) (t : List Byte) :
    decodeAt order (w ++ t) 0 = .resync := by
  obtain ⟨b0, u, rfl, h0, hlook⟩ | ⟨b1, b2, b3, rest, rfl, h8⟩ := decodeFront_eq_resync h
  · refine decodeFront_noise (hlook.imp_right fun hlen => hlen.trans ?_) h0
    exact (List.sublist_append_left (b0 :: u) t).length_le
  · exact decodeFront_badlen order b1 b2 h8 (rest ++ t)

/-- The bytes of the frame stand at the front whatever follows them. -/
theorem decodeAt_append_frame {order : DecodeOrder} {w : List Byte} {f : Frame} {k : Nat}
    (h : decodeAt order w 0 = .frame f k) (t : List Byte) : decodeAt order (w ++ t) 0 = .frame f k := by
  obtain ⟨-, hfront⟩ := decodeReadsOnlyTheFramesBytes order w f k h
  rw [← List.take_append_drop k w, List.append_assoc]
  exact hfront (w.drop k ++ t)

/-- Settles O14: each of the two verdicts that do not wait. -/
theorem verdictSurvivesMoreBytes : Obligations.VerdictSurvivesMoreBytes := by
  intro order w t hdecided
  cases hd : decodeAt order w 0 with
  | resync => exact decodeAt_append_resync hd t
  | incomplete => exact absurd hd hdecided
  | frame f k => exact decodeAt_append_frame hd t

/-- Settles O21: one pass of the scan for each verdict. -/
theorem scanFollowsItsSteps : Obligations.ScanFollowsItsSteps := by
  intro order w
  refine ⟨scan_resync, scan_incomplete, fun f n hd => ?_⟩
  obtain ⟨-, hn, -⟩ := decodeAt_frame_bounds hd
  exact ⟨hn, scan_frame hd⟩

/-- The wire bytes of the frames the scan yields and the window it retains come from different bytes scanned (R92). -/
theorem wireBytes_scan_add_rest_le (order : DecodeOrder) (w : List Byte) :
    wireBytes (scan order w).frames + (scan order w).rest.length ≤ w.length := by
  induction w using scan_induction order with
  | resync w hd ih =>
    rw [scan_resync hd]
    exact ih.trans (by simp)
  | incomplete w hd => simp [scan_incomplete hd, wireBytes]
  | frame w f k hd ih =>
    obtain ⟨-, hk, hkw⟩ := decodeAt_frame_bounds hd
    rw [List.length_drop] at ih
    simp only [scan_frame hd, wireBytes]
    omega

/-- Settles O29: the count of bytes, and the retained window as an end of the one scanned. -/
theorem scanRemovesBytesFromTheFront : Obligations.ScanRemovesBytesFromTheFront := fun order w =>
  ⟨wireBytes_scan_add_rest_le order w, scan_rest_suffix order w⟩

/-- Bytes that arrive later are scanned after what the first scan retained: it decided each pass on bytes that stay (R96). -/
theorem scan_append (order : DecodeOrder) (w t : List Byte) :
    scan order (w ++ t) = ⟨(scan order w).frames ++ (scan order ((scan order w).rest ++ t)).frames,
      (scan order ((scan order w).rest ++ t)).rest⟩ := by
  induction w using scan_induction order with
  | resync w hd ih =>
    have hpos := length_pos_of_decodeAt_resync hd
    rw [scan_resync (decodeAt_append_resync hd t), List.drop_append_of_le_length hpos, ih, scan_resync hd]
  | incomplete w hd =>
    rw [scan_incomplete hd]
    rfl
  | frame w f k hd ih =>
    obtain ⟨-, -, hkw⟩ := decodeAt_frame_bounds hd
    rw [scan_frame (decodeAt_append_frame hd t), List.drop_append_of_le_length hkw, ih, scan_frame hd]
    rfl

end Sys2Proof.Machine

/-! SUPPORT. FEED with and without overflow, what it leaves, and FEED of a stream in two chunks (R85 to R88, R94 to R96). -/

namespace Sys2Proof.Machine

/-- FEED of an admissible chunk completes with `feed`'s state and hands its frames back (R85, R86). -/
theorem execFeed_eq_feed {chunk : List Byte} {s : State} {m : Memory} (hm : s.buf = some m) (hc : chunk.length ≤ s.params.capacity) :
    execFeed chunk s = .next { (feed chunk m s).2 with ret := some (.frames (feed chunk m s).1) } := by
  rw [execFeed, Params.maxChunk, if_neg (Nat.not_lt.mpr hc), hm]

/-- FEED of a chunk that fits beside the window scans both together (R87, R88). -/
theorem execFeed_of_fits {chunk : List Byte} {s : State} {m : Memory} (hm : s.buf = some m)
    (hfits : m.pending + chunk.length ≤ s.params.capacity) :
    execFeed chunk s = .next
      { s with
        buf := some (Memory.ofWindow (scan s.params.decodeOrder (m.window ++ chunk)).rest)
        ret := some (.frames (scan s.params.decodeOrder (m.window ++ chunk)).frames) } := by
  have hno : ¬ s.params.capacity < m.pending + chunk.length := Nat.not_lt.mpr hfits
  rw [execFeed_eq_feed hm ((Nat.le_add_left _ _).trans hfits), feed_frames, feed_state, window_accept, if_neg hno, if_neg hno]

/-- FEED of a chunk that does not fit records the loss and scans the chunk alone (R87). -/
theorem execFeed_of_overflow {chunk : List Byte} {s : State} {m : Memory} (hm : s.buf = some m)
    (hc : chunk.length ≤ s.params.capacity) (hover : s.params.capacity < m.pending + chunk.length) :
    execFeed chunk s = .next
      { s with
        trace := s.trace ++ [.evt 0x01 (.loss m.pending chunk.length)]
        buf := some (Memory.ofWindow (scan s.params.decodeOrder chunk).rest)
        ret := some (.frames (scan s.params.decodeOrder chunk).frames) } := by
  rw [execFeed_eq_feed hm hc, feed_frames, feed_state, window_accept, if_pos hover, if_pos hover]

/-- Settles O22: the chunk fits beside the window or overflows it. -/
theorem feedAppendsAndScans : Obligations.FeedAppendsAndScans := fun _ _ _ hm hc =>
  ⟨execFeed_of_fits hm, execFeed_of_overflow hm hc⟩

/-- Settles O26: the scan of a stable window yields nothing and keeps it, and a canonical buffer is that of its window. -/
theorem emptyChunkChangesNothing : Obligations.EmptyChunkChangesNothing := by
  intro s hbuf hbounded hstable
  obtain ⟨m, hm⟩ := Option.isSome_iff_exists.mp hbuf
  obtain ⟨hwf, hcap⟩ := hbounded m hm
  refine (execFeed_of_fits (chunk := []) hm hcap).trans ?_
  rw [List.append_nil, scan_incomplete (hstable m hm), ← eq_ofWindow_of_wf hwf, ← hm]

/-- FEED leaves the buffer of what the scan of some window of at most CAPACITY bytes retains (R88). -/
theorem execFeed_buf {chunk : List Byte} {s t : State} (h : execFeed chunk s = .next t) :
    ∃ w, w.length ≤ t.params.capacity ∧ t.buf = some (Memory.ofWindow (scan t.params.decodeOrder w).rest) := by
  obtain ⟨hc, m, -, rfl⟩ := execFeed_eq_next h
  rw [feed_state]
  exact ⟨(accept s.params.capacity m chunk).window, pending_eq _ ▸ pending_accept_le hc, rfl⟩

/-- Settles O25: the retained window is stable and in bounds, so O26 is about the second FEED. -/
theorem feedLeavesAStableWindow : Obligations.FeedLeavesAStableWindow := by
  intro s t chunk h
  obtain ⟨w, hw, hbuf⟩ := execFeed_buf h
  have hstable : t.stable := by
    intro m hm
    cases hbuf.symm.trans hm
    rw [window_ofWindow]
    exact decodeAt_scan_rest _ w
  have hbounded : t.bounded := by
    intro m hm
    cases hbuf.symm.trans hm
    rw [pending_ofWindow]
    exact ⟨wf_ofWindow _, (scan_rest_suffix _ w).length_le.trans hw⟩
  exact ⟨hstable, emptyChunkChangesNothing t (Option.isSome_of_eq_some hbuf) hbounded hstable⟩

/-- Settles O27: the scan of the whole stream is the scan of its first part and then of the retained window and the rest. -/
theorem chunkingDoesNotChangeTheFrames : Obligations.ChunkingDoesNotChangeTheFrames := by
  intro s m a b hm _ hfits
  have hrest : (scan s.params.decodeOrder (m.window ++ a)).rest.length ≤ m.pending + a.length := by
    rw [pending_eq, ← List.length_append]
    exact (scan_rest_suffix _ _).length_le
  have hab : m.pending + (a ++ b).length ≤ s.params.capacity := by rwa [List.length_append, ← Nat.add_assoc]
  refine ⟨_, _, _, _, _, execFeed_of_fits hm ((Nat.le_add_right _ _).trans hfits), rfl,
    execFeed_of_fits rfl ?fitsAfterA, rfl, execFeed_of_fits hm hab, ?frames, ?buf, rfl, rfl, rfl, _, rfl, ?pending⟩
  case fitsAfterA =>
    rw [pending_ofWindow]
    exact (Nat.add_le_add_right hrest _).trans hfits
  case frames => rw [← List.append_assoc, scan_append, window_ofWindow]
  case buf => rw [← List.append_assoc, scan_append, window_ofWindow]
  case pending => rwa [pending_ofWindow]

/-- Settles O19: both rows are a pass with the verdict RESYNC, whatever their operands. -/
theorem resyncRowsDropOneByte : Obligations.ResyncRowsDropOneByte := by
  intro s m hm
  have hpass : scanPass (fun _ => .resync) s = .next { s with buf := some (m.dropFront 1), ret := some (.decoded .resync) } :=
    scanPass_eq hm fun _ => .resync
  exact ⟨fun _ _ _ => hpass, fun _ _ => hpass⟩

/-- Settles O23: both test the chunk's length against MAX_CHUNK before anything else. -/
theorem longChunksAreRefused : Obligations.LongChunksAreRefused := fun _ _ hlong => ⟨if_pos hlong, if_pos hlong⟩

end Sys2Proof.Machine

/-! SUPPORT. A command under a lawful host, as the whole state it leaves (R99 to R112). -/

namespace Sys2Proof.Machine

/-- LOCK is taken before a body and given back after it (R17). -/
theorem withLock_of_body {body : State → Out} {s t : State} (hs : s.lock = .free) (ht : t.lock = .free)
    (h : body { s with lock := .held s.input.agent } = .next { t with lock := .held s.input.agent }) :
    withLock body s = .next t := by
  rw [withLock_free hs, h, andThen_next, release, ← ht]

theorem tearDown_of_unbound {op : Command} {s : State} (hb : s.bstate = .unbound) :
    tearDown op s = .next { s with trace := s.trace ++ [.resp op .done] } := by
  simp only [tearDown, hb, respond, State.emit]

/-- The two calls of a tear-down, then the response of the command that asked for it (R102). -/
theorem tearDown_of_bound {op : Command} {s : State} {h : Handles} (hs : s.input.breach = none) (hb : s.bstate = .bound)
    (hh : s.hnd = some h) :
    tearDown op s = .next
      { s with
        bstate := .unbound
        buf := none
        hnd := none
        trace := s.trace ++ [.restore h.origtx, .detachRx, .resp op .done] } := by
  simp [tearDown, hb, hh, callOut_lawful, hs, respond, State.emit]

/-- Each frame's INJECT leaves its entry, and its event where it fails; nothing else changes (R106, R107). -/
theorem injectAll_of_lawful {ep : Handle} {j : Nat} {fs : List Frame} {s : State} (hs : s.input.breach = none) :
    injectAll ep j fs s = .next { s with trace := s.trace ++ injectEntries ep s.input j fs } := by
  induction fs generalizing j s with
  | nil => simp [injectAll, injectEntries]
  | cons f fs ih =>
    simp only [injectAll, injectEntries, injectAnswer, callOut_lawful hs, andThen_next]
    cases s.input.injects.getD j s.input.injectRest with
    | ok => simp [ih, hs, State.emit]
    | fail => simp [ih, hs, State.raise, State.emit, Condition.code, Condition.info]

theorem releaseAndRespond_of_lawful {k : Token} {o : TxOutcome} {s : State} (hs : s.input.breach = none) :
    releaseAndRespond k o s = .next { s with trace := s.trace ++ [.release k, .resp .txFrame (.tx o)] } := by
  simp [releaseAndRespond, callOut_lawful hs, respond, State.emit]

/-! ## The binding -/

/-- Settles O30: the two handles select BIND's last branch, whose calls all answer. -/
theorem bindCreatesTheBinding : Obligations.BindCreatesTheBinding := by
  rintro s n tr c ep tp ⟨hfree, hlaw⟩ hb hr ho
  refine withLock_of_body hfree hfree ?_
  simp [bindBody, hb, hr, ho, callOut_lawful, hlaw, respond, State.emit, Memory.empty]

/-- Settles O31: each error ends BIND's body in a branch of its own, after the calls made so far. -/
theorem bindReportsTheFirstError : Obligations.BindReportsTheFirstError := by
  rintro s n tr c ⟨hfree, hlaw⟩
  refine ⟨fun hb => withLock_of_body hfree hfree ?alreadyBound, fun hb hr => withLock_of_body hfree hfree ?notFound,
    fun ep hb hr ho => withLock_of_body hfree hfree ?unavailable⟩
  case alreadyBound => simp only [bindBody, hb, respond, State.emit]
  case notFound => simp [bindBody, hb, hr, callOut_lawful, hlaw, respond, State.emit]
  case unavailable => simp [bindBody, hb, hr, ho, callOut_lawful, hlaw, respond, State.emit]

/-- Settles O32: the tear-down under LOCK, with UNBIND's response. -/
theorem unbindTearsTheBindingDown : Obligations.UnbindTearsTheBindingDown := fun _ ⟨hfree, hlaw⟩ =>
  ⟨fun _ hb hh => withLock_of_body hfree hfree (tearDown_of_bound hlaw hb hh),
    fun hb => withLock_of_body hfree hfree (tearDown_of_unbound hb)⟩

/-- Settles O33: the same tear-down, with each notice's response. -/
theorem closeAndRemovalActAsUnbind : Obligations.CloseAndRemovalActAsUnbind := fun _ ⟨hfree, hlaw⟩ =>
  ⟨fun _ hb hh => ⟨withLock_of_body hfree hfree (tearDown_of_bound hlaw hb hh),
      withLock_of_body hfree hfree (tearDown_of_bound hlaw hb hh)⟩,
    fun hb => ⟨withLock_of_body hfree hfree (tearDown_of_unbound hb), withLock_of_body hfree hfree (tearDown_of_unbound hb)⟩⟩

/-! ## Receive and transmit -/

/-- RX_CHUNK's body on a Bound block: FEED's scan and its event, then the injections of its frames and the response (R106). -/
theorem rxBody_of_bound {chunk : List Byte} {s : State} {m : Memory} {h : Handles} (hs : s.input.breach = none)
    (hb : s.bstate = .bound) (hm : s.buf = some m) (hh : s.hnd = some h) :
    rxBody chunk s = .next
      { s with
        buf := some (Memory.ofWindow (scan s.params.decodeOrder (accept s.params.capacity m chunk).window).rest)
        trace := s.trace ++ (if s.params.capacity < m.pending + chunk.length then [.evt 0x01 (.loss m.pending chunk.length)] else []) ++
          injectEntries h.ep s.input 0 (scan s.params.decodeOrder (accept s.params.capacity m chunk).window).frames ++
          [.resp .rxChunk .done] } := by
  simp only [rxBody, hb, hm, hh, feed_frames, feed_state, injectAll_of_lawful, hs, andThen_next, respond, State.emit]
  split
  · rfl
  · rw [List.append_nil]

/-- Settles O35: the body under LOCK, on the window the overflow policy and the append leave. -/
theorem rxChunkInjectsEveryFrame : Obligations.RxChunkInjectsEveryFrame := by
  rintro s m h chunk ⟨hfree, hlaw⟩ hb hm hh hc w lost
  have hw : w = (accept s.params.capacity m chunk).window := (window_accept ..).symm
  rw [exec, execRxChunk_of_le hc, hw]
  exact withLock_of_body hfree hfree (rxBody_of_bound hlaw hb hm hh)

/-- Settles O36: the Unbound branch of the body logs and responds. -/
theorem rxWhileUnboundIsANoOp : Obligations.RxWhileUnboundIsANoOp := by
  rintro s chunk ⟨hfree, -⟩ hb hc
  rw [exec, execRxChunk_of_le hc]
  refine withLock_of_body hfree hfree ?_
  simp [rxBody, hb, respond, State.raise, State.emit, Condition.code, Condition.info]

/-- Settles O37: the body reaches its WRITE, and the answer selects what follows. -/
theorem txFrameWritesTheWireFrame : Obligations.TxFrameWritesTheWireFrame := by
  rintro s h tf k bs ⟨hfree, hlaw⟩ hb hh h8 henc
  have hlen : ¬ MAXLEN < tf.length.toNat := Nat.not_lt.mpr h8
  refine ⟨fun hw => withLock_of_body hfree hfree ?ok, fun hw => withLock_of_body hfree hfree ?fail⟩
  case ok => simp [txBody, hb, hlen, henc, hh, hw, callOut_lawful, releaseAndRespond_of_lawful, hlaw, State.emit]
  case fail =>
    simp [txBody, hb, hlen, henc, hh, hw, callOut_lawful, releaseAndRespond_of_lawful, hlaw, State.raise, State.emit, Condition.code,
      Condition.info]

/-- Settles O38: the length check comes before the WRITE. -/
theorem malformedTxFrameIsDropped : Obligations.MalformedTxFrameIsDropped := by
  rintro s tf k ⟨hfree, hlaw⟩ hb h8
  have hlen : MAXLEN < tf.length.toNat := h8
  refine withLock_of_body hfree hfree ?_
  simp [txBody, hb, hlen, releaseAndRespond_of_lawful, hlaw, State.raise, State.emit, Condition.code, Condition.info]

/-- Settles O39: the Unbound branch comes before every check of the frame. -/
theorem txWhileUnboundIsReleased : Obligations.TxWhileUnboundIsReleased := by
  rintro s tf k ⟨hfree, hlaw⟩ hb
  refine withLock_of_body hfree hfree ?_
  simp [txBody, hb, releaseAndRespond_of_lawful, hlaw, State.raise, State.emit, Condition.code, Condition.info]

end Sys2Proof.Machine

/-! SUPPORT. What a completed command leaves unchanged, under every host: the binding (R98), BUF (R114), TRACE but for its own
entries (R113, R115). -/

namespace Sys2Proof.Machine

/-- From `s` to `t` only TRACE changes, by the entries `d`, and what is left of the host's own count of a breach (log 5). -/
def OnlyLogs (s t : State) (d : List TraceEntry) : Prop :=
  ∃ b, t = { s with input := { s.input with breach := b }, trace := s.trace ++ d }

theorem OnlyLogs.refl (s : State) : OnlyLogs s s [] := ⟨s.input.breach, by simp⟩

/-- A command whose body only logs only logs; where it waits it logs nothing. -/
theorem withLock_onlyLogs {P : List TraceEntry → Prop} {body : State → Out} {s t : State} (hnil : P [])
    (hbody : ∀ u, body { s with lock := .held s.input.agent } = .next u →
      ∃ d, OnlyLogs { s with lock := .held s.input.agent } u d ∧ P d)
    (h : withLock body s = .next t) : ∃ d, OnlyLogs s t d ∧ P d := by
  rcases withLock_eq_next h with ⟨hfree, u, hu, rfl⟩ | ⟨_, _, _, rfl⟩
  · obtain ⟨d, ⟨b, rfl⟩, hd⟩ := hbody u hu
    exact ⟨d, ⟨b, by rw [← hfree]⟩, hd⟩
  · exact ⟨[], .refl t, hnil⟩

/-! ## TX_FRAME -/

theorem execTxFrame_onlyLogs {tf : TxFrame} {k : Token} {s t : State} (h : execTxFrame tf k s = .next t) : ∃ d, OnlyLogs s t d := by
  have hbody : ∀ {s u}, txBody tf k s = .next u → ∃ d, OnlyLogs s u d ∧ True := by
    intro s u hu
    obtain ⟨b, d, o, rfl, -⟩ := txBody_eq_next hu
    exact ⟨d ++ [.release k, .resp .txFrame (.tx o)], ⟨b, by rw [List.append_assoc]⟩, trivial⟩
  obtain ⟨d, hd, -⟩ := withLock_onlyLogs (P := fun _ => True) trivial (fun _ => hbody) h
  exact ⟨d, hd⟩

/-- Settles O41: in each branch of the body only an event or a WRITE stands before the release. -/
theorem tokenIsReleasedExactlyOnce : Obligations.TokenIsReleasedExactlyOnce := by
  intro s t tf k hfree h
  rcases withLock_eq_next h with ⟨-, u, hu, rfl⟩ | ⟨a, hheld, -⟩
  · obtain ⟨b, d, o, rfl, hd⟩ := txBody_eq_next hu
    refine ⟨d, o, rfl, ?_⟩
    rcases hd with ⟨-, rfl, -⟩ | ⟨-, rfl, -⟩ | ⟨-, tp, bs, ⟨rfl, -⟩ | ⟨rfl, -⟩⟩ <;>
      simp [TraceEntry.isRelease, TraceEntry.isResponse]
  · cases hfree.symm.trans hheld

/-- BUF after an RX_CHUNK that completes: what the scan retains, on a Bound block whose LOCK is free; otherwise what it was. -/
def bufAfterRx (chunk : List Byte) (s : State) : Option Memory :=
  match s.lock, s.bstate, s.buf with
  | .free, .bound, some m => some (Memory.ofWindow (scan s.params.decodeOrder (accept s.params.capacity m chunk).window).rest)
  | _, _, b => b

/-- RX_CHUNK keeps BSTATE, and what it leaves in BUF depends on neither the host nor TRACE. -/
theorem execRxChunk_eq_next {chunk : List Byte} {s t : State} (h : execRxChunk chunk s = .next t) :
    t.bstate = s.bstate ∧ t.buf = bufAfterRx chunk s := by
  unfold execRxChunk at h
  split at h
  · cases h
  · rcases withLock_eq_next h with ⟨hfree, u, hu, rfl⟩ | ⟨a, hheld, -, rfl⟩
    · rcases rxBody_eq_next hu with ⟨hb : s.bstate = .unbound, rfl⟩ |
        ⟨hb : s.bstate = .bound, m, hd, v, hm : s.buf = some m, -, hv, rfl⟩
      · exact ⟨rfl, by simp [bufAfterRx, hfree, hb]⟩
      · obtain ⟨b, d, rfl, -⟩ := injectAll_eq_next hv
        simp [feed_state, bufAfterRx, hfree, hb, hm]
    · exact ⟨rfl, by simp [bufAfterRx, hheld]⟩

/-- Settles O42: TX_FRAME only logs, and nothing RX_CHUNK's buffer depends on is in TRACE. -/
theorem transmitNeverTouchesTheWindow : Obligations.TransmitNeverTouchesTheWindow := by
  intro s t tf k h
  obtain ⟨d, b, rfl⟩ := execTxFrame_onlyLogs h
  refine ⟨⟨rfl, rfl, rfl, rfl⟩, fun chunk u v hu hv => ?_⟩
  exact (execRxChunk_eq_next hu).2.trans (execRxChunk_eq_next hv).2.symm

/-! ## Unbound blocks -/

/-- On an Unbound block the operation only logs, and makes no call but RELEASE (R115). -/
def QuietWhileUnbound (o : State → Out) : Prop :=
  ∀ s t : State, s.bstate = .unbound → o s = .next t → ∃ d, OnlyLogs s t d ∧ ∀ e ∈ d, e.isCollaboratorCall = false

theorem withLock_quiet {body : State → Out} (h : QuietWhileUnbound body) : QuietWhileUnbound (withLock body) :=
  fun _ _ hb => withLock_onlyLogs (by simp) fun _ => h _ _ hb

theorem tearDown_quiet (op : Command) : QuietWhileUnbound (tearDown op) := by
  intro s t hb h
  rw [tearDown_of_unbound hb] at h
  cases h
  exact ⟨_, ⟨_, rfl⟩, by simp [TraceEntry.isCollaboratorCall]⟩

theorem rxBody_quiet (chunk : List Byte) : QuietWhileUnbound (rxBody chunk) := by
  intro s t hb h
  rcases rxBody_eq_next h with ⟨-, rfl⟩ | ⟨hbound, -⟩
  · exact ⟨_, ⟨_, rfl⟩, by simp [TraceEntry.isCollaboratorCall]⟩
  · cases hb.symm.trans hbound

theorem txBody_quiet (tf : TxFrame) (k : Token) : QuietWhileUnbound (txBody tf k) := by
  intro s t hb h
  obtain ⟨b, d, o, rfl, ⟨-, rfl, -⟩ | ⟨hbound, -⟩ | ⟨hbound, -⟩⟩ := txBody_eq_next h
  · exact ⟨_, ⟨b, by rw [List.append_assoc]⟩, by simp [TraceEntry.isCollaboratorCall]⟩
  · cases hb.symm.trans hbound
  · cases hb.symm.trans hbound

theorem execRxChunk_quiet (chunk : List Byte) : QuietWhileUnbound (execRxChunk chunk) := by
  intro s t hb h
  unfold execRxChunk at h
  split at h
  · cases h
  · exact withLock_quiet (rxBody_quiet chunk) s t hb h

theorem exec_quiet {i : Instr} {c : Command} (hc : i.command = some c) (hbind : c ≠ .bind) : QuietWhileUnbound (exec i) := by
  cases i with
  | bind n tr cfg => exact absurd (Option.some.inj hc).symm hbind
  | unbind => exact withLock_quiet (tearDown_quiet .unbind)
  | rxChunk chunk => exact execRxChunk_quiet chunk
  | txFrame tf k => exact withLock_quiet (txBody_quiet tf k)
  | transportClose => exact withLock_quiet (tearDown_quiet .transportClose)
  | endpointRemove => exact withLock_quiet (tearDown_quiet .endpointRemove)
  | _ => cases hc

/-- Settles O48: what only logs leaves the binding as it was. -/
theorem unboundCommandsCallNoCollaborator : Obligations.UnboundCommandsCallNoCollaborator := by
  intro i c s t hc hbind hb h
  obtain ⟨d, ⟨b, rfl⟩, hd⟩ := exec_quiet hc hbind s t hb h
  exact ⟨⟨hb, rfl, rfl⟩, d, rfl, hd⟩

/-! ## BSTATE -/

/-- A BIND that moves BSTATE found the block Unbound and answered OK (R98, R99). -/
theorem execBind_bstate {n : EndpointName} {tr : TransportId} {c : LinkCfg} {s t : State} (h : execBind n tr c s = .next t) :
    t.bstate = s.bstate ∨
      (s.bstate = .unbound ∧ t.bstate = .bound ∧ t.trace.getLast? = some (.resp .bind (.bind .ok))) := by
  rcases withLock_eq_next h with ⟨-, u, hu, rfl⟩ | ⟨_, _, _, rfl⟩
  · rcases bindBody_eq_next hu with ⟨-, rfl⟩ | ⟨-, b, d, -, r, -, rfl⟩ | ⟨hb, ep, tp, b, -, -, rfl⟩
    · exact .inl rfl
    · exact .inl rfl
    · exact .inr ⟨hb, rfl, by simp⟩
  · exact .inl rfl

/-- A tear-down that moves BSTATE found the block Bound (R98, R102). -/
theorem withLock_tearDown_bstate {op : Command} {s t : State} (h : withLock (tearDown op) s = .next t) :
    t.bstate = s.bstate ∨ (s.bstate = .bound ∧ t.bstate = .unbound) := by
  rcases withLock_eq_next h with ⟨-, u, hu, rfl⟩ | ⟨_, _, _, rfl⟩
  · rcases tearDown_eq_next hu with ⟨-, rfl⟩ | ⟨hb, hd, b, -, rfl⟩
    · exact .inl rfl
    · exact .inr ⟨hb, rfl⟩
  · exact .inl rfl

theorem scanPass_bstate {v : List Byte → DecodeResult} {s t : State} (h : scanPass v s = .next t) : t.bstate = s.bstate := by
  unfold scanPass at h
  split at h <;> cases h
  rfl

/-- An instruction that is no command hands a result back and leaves BSTATE. -/
theorem exec_bstate_of_no_command {i : Instr} {s t : State} (hi : i.command = none) (h : exec i s = .next t) :
    t.bstate = s.bstate := by
  cases i with
  | bind | unbind | rxChunk | txFrame | transportClose | endpointRemove => cases hi
  | reserved0 | reserved7 | reserved8F => cases h
  | encode f =>
    simp only [exec, execEncode] at h
    split at h
    · cases h
    · split at h <;> cases h
      rfl
  | decode w off =>
    simp only [exec, execDecode] at h
    split at h <;> cases h
    rfl
  | feed chunk =>
    obtain ⟨-, m, -, rfl⟩ := execFeed_eq_next h
    rw [feed_state]
  | wireShort bytes => exact scanPass_bstate (v := fun _ => shortVerdict s.params.decodeOrder bytes) h
  | wireNosync | wireBadlen => exact scanPass_bstate (v := fun _ => .resync) h
  | _ => exact scanPass_bstate h

/-- Settles O34: BIND and the three tear-downs move BSTATE one way each; every other instruction keeps it. -/
theorem onlyItsCommandsMoveTheBinding : Obligations.OnlyItsCommandsMoveTheBinding := by
  intro i s t h
  cases i with
  | bind n tr c => exact (execBind_bstate h).imp_right fun ⟨hs, ht, hlast⟩ => .inl ⟨hs, ht, ⟨n, tr, c, rfl⟩, hlast⟩
  | unbind => exact (withLock_tearDown_bstate h).imp_right fun ⟨hs, ht⟩ => .inr ⟨hs, ht, .inl rfl⟩
  | transportClose => exact (withLock_tearDown_bstate h).imp_right fun ⟨hs, ht⟩ => .inr ⟨hs, ht, .inr (.inl rfl)⟩
  | endpointRemove => exact (withLock_tearDown_bstate h).imp_right fun ⟨hs, ht⟩ => .inr ⟨hs, ht, .inr (.inr rfl)⟩
  | rxChunk chunk => exact .inl (execRxChunk_eq_next h).1
  | txFrame tf k =>
    obtain ⟨d, b, rfl⟩ := execTxFrame_onlyLogs h
    exact .inl rfl
  | _ => exact .inl (exec_bstate_of_no_command rfl h)

end Sys2Proof.Machine

/-! SUPPORT. The response of a command that completes (R122): each body appends entries that are no response, then its own response. -/

namespace Sys2Proof.Machine

/-- What TRACE gains from `s` to `t` is some entries without a response, then one response of `c`. -/
def EndsInResponse (c : Command) (s t : State) : Prop :=
  ∃ d r, t.trace = s.trace ++ d ++ [.resp c r] ∧ ∀ e ∈ d, e.isResponse = false

theorem withLock_endsInResponse {c : Command} {body : State → Out} {s t : State}
    (hbody : ∀ v u, body v = .next u → EndsInResponse c v u) (hfree : s.lock = .free) (h : withLock body s = .next t) :
    EndsInResponse c s t := by
  rcases withLock_eq_next h with ⟨-, u, hu, rfl⟩ | ⟨a, hheld, -⟩
  · exact hbody { s with lock := .held s.input.agent } u hu
  · cases hfree.symm.trans hheld

theorem tearDown_endsInResponse {c : Command} {s t : State} (h : tearDown c s = .next t) : EndsInResponse c s t := by
  rcases tearDown_eq_next h with ⟨-, rfl⟩ | ⟨-, hd, b, -, rfl⟩
  · exact ⟨[], .done, by simp, by simp⟩
  · exact ⟨[.restore hd.origtx, .detachRx], .done, by simp, by simp [TraceEntry.isResponse]⟩

theorem bindBody_endsInResponse {n : EndpointName} {tr : TransportId} {cfg : LinkCfg} {s t : State}
    (h : bindBody n tr cfg s = .next t) : EndsInResponse .bind s t := by
  rcases bindBody_eq_next h with ⟨-, rfl⟩ | ⟨-, b, d, hd, r, -, rfl⟩ | ⟨-, ep, tp, b, -, -, rfl⟩
  · exact ⟨[], .bind .alreadyBound, by simp, by simp⟩
  · refine ⟨d, .bind r, rfl, fun e he => ?_⟩
    rcases hd e he with ⟨_, rfl⟩ | ⟨_, rfl⟩ <;> rfl
  · exact ⟨[.resolve n (.handle ep), .openTransport tr (.handle tp), .config cfg, .attachRx, .install s.input.origtx], .bind .ok,
      by simp, by simp [TraceEntry.isResponse]⟩

/-- FEED adds to TRACE at most its Overflow event. -/
theorem feed_trace (chunk : List Byte) (m : Memory) (s : State) :
    ∃ d, (feed chunk m s).2.trace = s.trace ++ d ∧ ∀ e ∈ d, e.isResponse = false := by
  rw [feed_state]
  by_cases ho : s.params.capacity < m.pending + chunk.length
  · exact ⟨[.evt 0x01 (.loss m.pending chunk.length)], if_pos ho, by simp [TraceEntry.isResponse]⟩
  · exact ⟨[], by simp [ho], by simp⟩

/-- The injections add to TRACE no response. -/
theorem injectAll_trace {ep : Handle} {k : Nat} {fs : List Frame} {s t : State} (h : injectAll ep k fs s = .next t) :
    ∃ d, t.trace = s.trace ++ d ∧ ∀ e ∈ d, e.isResponse = false := by
  obtain ⟨b, d, rfl, hd⟩ := injectAll_eq_next h
  refine ⟨d, rfl, fun e he => ?_⟩
  rcases hd e he with ⟨_, _, _, rfl⟩ | ⟨_, _, rfl⟩ <;> rfl

theorem rxBody_endsInResponse {chunk : List Byte} {s t : State} (h : rxBody chunk s = .next t) : EndsInResponse .rxChunk s t := by
  rcases rxBody_eq_next h with ⟨-, rfl⟩ | ⟨-, m, hd, u, -, -, hu, rfl⟩
  · exact ⟨[.evt 0x05 (.chunkLen chunk.length)], .done, by simp, by simp [TraceEntry.isResponse]⟩
  · obtain ⟨d, hfeed, hd⟩ := feed_trace chunk m s
    obtain ⟨d', hinject, hd'⟩ := injectAll_trace hu
    refine ⟨d ++ d', .done, by rw [emit_trace, hinject, hfeed, List.append_assoc s.trace], fun e he => ?_⟩
    exact (List.mem_append.mp he).elim (hd e) (hd' e)

theorem execRxChunk_endsInResponse {chunk : List Byte} {s t : State} (hfree : s.lock = .free) (h : execRxChunk chunk s = .next t) :
    EndsInResponse .rxChunk s t := by
  unfold execRxChunk at h
  split at h
  · cases h
  · exact withLock_endsInResponse (fun _ _ => rxBody_endsInResponse) hfree h

/-- TX_FRAME's entries before its RELEASE hold no response, and RELEASE is none (O41). -/
theorem execTxFrame_endsInResponse {tf : TxFrame} {k : Token} {s t : State} (hfree : s.lock = .free)
    (h : execTxFrame tf k s = .next t) : EndsInResponse .txFrame s t := by
  obtain ⟨d, o, htrace, hd⟩ := tokenIsReleasedExactlyOnce s t tf k hfree h
  refine ⟨d ++ [.release k], .tx o, by simp [htrace], fun e he => ?_⟩
  rcases List.mem_append.mp he with he | he
  · exact (hd e he).2
  · cases List.mem_singleton.mp he
    rfl

/-- Settles O47: under a free LOCK a command's entries are its body's, and each body ends in its one response. -/
theorem everyCommandRespondsOnce : Obligations.EveryCommandRespondsOnce := by
  intro i c s t hc hfree h
  cases i with
  | bind n tr cfg => cases hc; exact withLock_endsInResponse (fun _ _ => bindBody_endsInResponse) hfree h
  | unbind => cases hc; exact withLock_endsInResponse (fun _ _ => tearDown_endsInResponse) hfree h
  | rxChunk chunk => cases hc; exact execRxChunk_endsInResponse hfree h
  | txFrame tf k => cases hc; exact execTxFrame_endsInResponse hfree h
  | transportClose => cases hc; exact withLock_endsInResponse (fun _ _ => tearDown_endsInResponse) hfree h
  | endpointRemove => cases hc; exact withLock_endsInResponse (fun _ _ => tearDown_endsInResponse) hfree h
  | _ => cases hc

end Sys2Proof.Machine

/-! SUPPORT. The reset state (R135), the build parameters (R137), and RX_CHUNK of chunks too short to overflow (R140). -/

namespace Sys2Proof.Machine

/-! ## Reset -/

/-- Settles O53: the fields of the reset state; its inbox is empty, so a step finds it idle. -/
theorem resetLeavesAnUnboundBlock : Obligations.ResetLeavesAnUnboundBlock := by
  intro p
  have hidle : fetch (State.resetWith p) = .idle := rfl
  have hwaits : step (State.resetWith p) = .next (State.resetWith p) := by rw [step, hidle]
  exact ⟨rfl, rfl, rfl, rfl, rfl, rfl, rfl, hwaits, rfl⟩

/-- Settles O54: without BUF there is no window to bound or to decode, and an empty TRACE holds no INJECT. -/
theorem resetMeetsTheInvariant : Obligations.ResetMeetsTheInvariant := fun _ =>
  { idle := rfl
    free := rfl
    lifecycle := ⟨rfl, rfl⟩
    bounded := nofun
    stable := nofun
    framesLegal := framesLegal_nil }

/-! ## The build parameters -/

/-- A fetched instruction runs in a state of the same build. -/
theorem fetch_run_params {s u : State} {i : Instr} (h : fetch s = .run i u) : u.params = s.params := by
  unfold fetch at h
  split at h
  case h_1 => cases h; rfl
  case h_2 => split at h <;> cases h; rfl
  case h_3 =>
    split at h
    · cases h
    · split at h <;> cases h; rfl

/-- A step that completes changes nothing, or is the effect of the instruction it fetches. -/
theorem step_eq_next {s t : State} (h : step s = .next t) : t = s ∨ ∃ i u, fetch s = .run i u ∧ Effect i u t := by
  unfold step at h
  split at h
  case h_1 => cases h; exact .inl rfl
  case h_2 => cases h; exact .inl rfl
  case h_3 => cases h
  case h_4 i u hfetch => exact .inr ⟨i, u, hfetch, exec_effect h⟩

/-- Settles O50: an effect keeps the parameters, and fetch hands on those of the state. -/
theorem parametersAreFixed : Obligations.ParametersAreFixed := by
  refine ⟨fun _ => rfl, fun _ _ _ h => (exec_effect h).params, fun s t h => ?_⟩
  rcases step_eq_next h with rfl | ⟨i, u, hfetch, heffect⟩
  · rfl
  · exact heffect.params.trans (fetch_run_params hfetch)

/-! ## Chunks that cannot overflow -/

/-- The injections record no Overflow: an INJECT entry is no event, and a FAIL's event is InjectFail. -/
theorem injectEntries_no_overflow (ep : Handle) (i : Input) (k : Nat) (fs : List Frame) :
    ∀ e ∈ injectEntries ep i k fs, e.isOverflow = false := by
  induction fs generalizing k with
  | nil => simp [injectEntries]
  | cons f fs ih =>
    unfold injectEntries
    split
    · exact List.forall_mem_cons.mpr ⟨rfl, ih _⟩
    · exact List.forall_mem_cons.mpr ⟨rfl, List.forall_mem_cons.mpr ⟨rfl, ih _⟩⟩

/-- Settles O43: at most 11 bytes wait (R38), so the chunk fits beside them. -/
theorem smallChunksNeverOverflow : Obligations.SmallChunksNeverOverflow := by
  intro s chunk hinv hlaw _ hc
  have hready : s.ready := ⟨hinv.free, hlaw⟩
  have hadmissible : chunk.length ≤ s.params.capacity := by omega
  cases hb : s.bstate with
  | unbound => exact ⟨_, _, rxWhileUnboundIsANoOp s chunk hready hb hadmissible, rfl, by simp [TraceEntry.isOverflow]⟩
  | bound =>
    obtain ⟨m, hm⟩ := lifecycle_exists_buf hinv.lifecycle hb
    obtain ⟨h, hh⟩ := lifecycle_exists_hnd hinv.lifecycle hb
    have hwait : m.pending ≤ 11 := atMostElevenBytesWait s m.pending hinv (congrArg (Option.map Memory.pending) hm)
    have hfits : ¬ s.params.capacity < m.pending + chunk.length := by omega
    have hexec := rxChunkInjectsEveryFrame s m h chunk hready hb hm hh hadmissible
    simp only [if_neg hfits, List.append_nil, List.append_assoc s.trace] at hexec
    exact ⟨_, _, hexec, rfl, List.forall_mem_append.mpr ⟨injectEntries_no_overflow _ _ _ _, by simp [TraceEntry.isOverflow]⟩⟩

end Sys2Proof.Machine
